-- ==== Sys2Proof/Word.lean ====
section
/-! DEFINITION. The words the VBR-160 handles as bits: bytes of the management link, beats of the traffic path,
byte addresses, page numbers, requester IDs and tags. Counts and sizes are natural numbers. -/

namespace Sys2Proof

/-- One byte of a link character or of a payload (R156, R185). -/
abbrev Byte := BitVec 8

/-- One beat: 8 bytes of data (00_scope.md, Terms). -/
abbrev Beat := BitVec 64

/-- A 32-bit byte address (R51). -/
abbrev Addr := BitVec 32

/-- A page number: the byte address divided by 4096 (R23). -/
abbrev Page := BitVec 20

/-- A requester ID, 0 to 63 (R51). -/
abbrev RequesterId := BitVec 6

/-- A tag, 0 to 255 (R51). -/
abbrev Tag := BitVec 8

/-- A budget account index, 0 to 15 (R1). -/
abbrev AccountIndex := Fin 16

/-- A Hold Pool slot index, 0 to 23 (R74). -/
abbrev SlotIndex := Fin 24

end Sys2Proof
end

