-- ==== Sys2Proof/Config.lean ====
section
/-! DEFINITION. The constants the data sheet fixes: capacities, saturation limits, identity codes, link durations.
The data sheet leaves no result of any command undefined, so no free value is declared. -/

namespace Sys2Proof.Config

/-- The Outstanding Table holds at most 16 entries (R105). -/
def outstandingMax : Nat := 16
/-- The Capture Ring holds at most 8 records (R143). -/
def captureMax : Nat := 8
/-- A period has 32 slices (R37). -/
def slicesPerPeriod : Nat := 32
/-- The period number and the sequence count wrap at 65,536 (R37, R145). -/
def wrap16 : Nat := 65536
/-- Per-account event counters saturate here (R15). -/
def counterMax : Nat := 4294967295
/-- The tag-wait, slot-wait and stray counters saturate here (R72, R116). -/
def globalCounterMax : Nat := 65535
/-- The link error counter, the capture lost count and the wait saturate here (R167, R145, R85). -/
def byteMax : Nat := 255
/-- The longest payload of a command frame (R161). -/
def payloadMax : Nat := 48
/-- The select value of broadcast (R158). -/
def broadcastSelect : Nat := 31
/-- Pajetra's vendor code (R172). -/
def vendorCode : Nat := 0x0A37
/-- The part code of the VBR-160 (R172). -/
def partCode : Nat := 0x0160
/-- The revision of the parts described (R172). -/
def revision : Nat := 1
/-- Power-on tick prescale (R48). -/
def powerOnPrescale : Nat := 99
/-- Power-on slice length (R48). -/
def powerOnSliceLength : Nat := 1000

/-- The bit time in REFCLK cycles that the RATE straps select (R155). -/
def bitTime (rate : BitVec 2) : Nat :=
  match rate.toNat with
  | 0 => 16
  | 1 => 64
  | 2 => 256
  | _ => 1024

/-- A character time is 11 bit times (R155). -/
def characterTime (rate : BitVec 2) : Nat := 11 * bitTime rate

end Sys2Proof.Config
end

