-- ==== Sys2Proof/Syntax.lean ====
section
/-! DEFINITION. The commands the VBR-160 takes: one constructor per row of spec/opcode_table.json, with the records
the commands carry. The multi-byte operands of a management command are the integers its payload bytes form, so that a
value out of range can be sent (R185). -/

namespace Sys2Proof

/-- The direction of a request (R51). -/
inductive Direction where
  | read
  | write
deriving DecidableEq, Repr

/-- The request record of the H-port request channel (R51). The length is 1 to 16 beats on every record the channel
can carry (R54); `Instr.wellFormed` says so. Write data may be absent. -/
structure Request where
  id   : RequesterId
  tag  : Tag
  dir  : Direction
  addr : Addr
  len  : Nat
  data : Option (List Beat)
deriving DecidableEq, Repr

/-- The status of a memory response (R107). -/
inductive MemoryStatus where
  | okay
  | memFault
deriving DecidableEq, Repr

/-- The response record of the M-port response channel (R107). Read data may be absent. -/
structure MemoryResponse where
  id     : RequesterId
  tag    : Tag
  status : MemoryStatus
  data   : Option (List Beat)
deriving DecidableEq, Repr

/-- What makes a power-on reset (R138). -/
inductive ResetSource where
  | resetn
  | detector
deriving DecidableEq, Repr

/-- A change of a source of the power-on reset: it begins to assert the reset, or it releases it (R138). -/
inductive ResetChange where
  | asserts (src : ResetSource)
  | releases (src : ResetSource)
deriving DecidableEq, Repr

/-- The commands, in the table's order. -/
inductive Instr where
  | offer (r : Request)
  | takeHeld
  | takeRefusing
  | mPortReadyEvent
  | memoryResponse (r : MemoryResponse)
  | hPortReadyEvent
  | tick
  | sliceBoundary
  | periodBoundary
  | expiry
  | publication
  | regulationRestart
  | regenFall
  | powerOnReset (src : ResetChange)
  | initialisation (stn : BitVec 5) (rate : BitVec 2)
  | initialisationComplete (regenHigh : Bool)
  | selectCharacter (value : Byte)
  | dataCharacter (value : Byte)
  | framingError
  | frameTimeout
  | linkBreak
  | responseTurnaround
  | responseEnd
  | unknownCommand (code : Byte) (payload : List Byte)
  | identify
  | statusKeep
  | statusClear
  | readAccount (index copy : Byte)
  | writeAccount (index mode : Byte) (quantum : BitVec 16) (extra : Byte) (ceiling : BitVec 16)
      (weight cap maxWait priority : Byte)
  | readMap (index copy : Byte)
  | writeMap (index valid idValue idMask : Byte) (basePage limitPage : BitVec 24) (filter account : Byte)
  | readGlobals
  | writeGlobals (prescale sliceLength : BitVec 16) (unmapped : Byte)
  | copyLiveToStaged
  | commit
  | cancelCommit
  | readCountersKeep (index : Byte)
  | readCountersClear (index : Byte)
  | readHold (slot : Byte)
  | flushRelease (selector : Byte)
  | flushRefuse (selector : Byte)
  | readCapture
  | clearCapture
  | setMode (mode : Byte)
  | ackAlert (mask : Byte)
  | setAlertEnable (mask : Byte)
  | refclkStop
  | refclkResume
  | endOfBreak
deriving DecidableEq, Repr

end Sys2Proof
end

