-- ==== Sys2Proof/Machine/Commands.lean ====
section
/-! DEFINITION. The command set of the management link (R171): codes, types, payload lengths, and which commands a
pending commit refuses (R170). -/

namespace Sys2Proof.Machine

/-- The commands the Command Executor knows (R171). -/
inductive Command where
  | identify | status | readAccount | writeAccount | readMap | writeMap | readGlobals | writeGlobals
  | copyLiveToStaged | commit | cancelCommit | readCounters | readHold | flush | readCapture | clearCapture
  | setMode | ackAlert | setAlertEnable
deriving DecidableEq, Repr

/-- The code of each command (R171). -/
def Command.code : Command → Byte
  | .identify => 0x01
  | .status => 0x02
  | .readAccount => 0x10
  | .writeAccount => 0x11
  | .readMap => 0x12
  | .writeMap => 0x13
  | .readGlobals => 0x14
  | .writeGlobals => 0x15
  | .copyLiveToStaged => 0x16
  | .commit => 0x18
  | .cancelCommit => 0x19
  | .readCounters => 0x20
  | .readHold => 0x21
  | .flush => 0x28
  | .readCapture => 0x30
  | .clearCapture => 0x31
  | .setMode => 0x38
  | .ackAlert => 0x39
  | .setAlertEnable => 0x3A

/-- Every command of the table of R171. -/
def allCommands : List Command :=
  [.identify, .status, .readAccount, .writeAccount, .readMap, .writeMap, .readGlobals, .writeGlobals,
   .copyLiveToStaged, .commit, .cancelCommit, .readCounters, .readHold, .flush, .readCapture, .clearCapture,
   .setMode, .ackAlert, .setAlertEnable]

/-- The command a code names, or none: every code not in the table is unknown (R171). -/
def commandOf (code : Byte) : Option Command :=
  allCommands.find? fun c => c.code == code

/-- The payload length each command takes (R171). -/
def Command.payloadLength : Command → Nat
  | .identify => 0
  | .status => 1
  | .readAccount => 2
  | .writeAccount => 11
  | .readMap => 2
  | .writeMap => 12
  | .readGlobals => 0
  | .writeGlobals => 5
  | .copyLiveToStaged => 0
  | .commit => 0
  | .cancelCommit => 0
  | .readCounters => 2
  | .readHold => 1
  | .flush => 2
  | .readCapture => 0
  | .clearCapture => 0
  | .setMode => 1
  | .ackAlert => 1
  | .setAlertEnable => 1

/-- Write-type commands are executed by broadcast, read-type commands are not (R163, R171). -/
def Command.isWriteType : Command → Bool
  | .writeAccount | .writeMap | .writeGlobals | .copyLiveToStaged | .commit | .cancelCommit | .flush
  | .clearCapture | .setMode | .ackAlert | .setAlertEnable => true
  | .identify | .status | .readAccount | .readMap | .readGlobals | .readCounters | .readHold
  | .readCapture => false

/-- The five commands that a pending commit refuses (R170, check 4). -/
def Command.refusedWhilePending : Command → Bool
  | .writeAccount | .writeMap | .writeGlobals | .copyLiveToStaged | .commit => true
  | .identify | .status | .readAccount | .readMap | .readGlobals | .cancelCommit | .readCounters | .readHold
  | .flush | .readCapture | .clearCapture | .setMode | .ackAlert | .setAlertEnable => false

end Sys2Proof.Machine
end

