-- ==== Sys2Proof/WellFormed.lean ====
section
/-! DEFINITION. When a command is one the outside can send: a request record has 1 to 16 beats (R51, R54), and an
UNKNOWN_COMMAND frame carries a code outside the table of R171 and at most 48 payload bytes (R161). -/

namespace Sys2Proof

/-- A length of 1 to 16 beats is a property of every record the channel can carry (R54). -/
def Request.wellFormed (r : Request) : Bool := decide (1 ≤ r.len) && decide (r.len ≤ 16)

/-- Every other operand is a bit field whose every value can be sent. -/
def Instr.wellFormed : Instr → Bool
  | .offer r => r.wellFormed
  | .unknownCommand code payload =>
      (Machine.commandOf code).isNone && decide (payload.length ≤ Config.payloadMax)
  | .takeHeld | .takeRefusing | .mPortReadyEvent | .memoryResponse _ | .hPortReadyEvent | .tick | .sliceBoundary
  | .periodBoundary | .expiry | .publication | .regulationRestart | .regenFall | .powerOnReset _
  | .initialisation _ _ | .initialisationComplete _ | .selectCharacter _ | .dataCharacter _ | .framingError
  | .frameTimeout | .linkBreak | .responseTurnaround | .responseEnd | .identify | .statusKeep | .statusClear
  | .readAccount _ _ | .writeAccount _ _ _ _ _ _ _ _ _ | .readMap _ _ | .writeMap _ _ _ _ _ _ _ _ | .readGlobals
  | .writeGlobals _ _ _ | .copyLiveToStaged | .commit | .cancelCommit | .readCountersKeep _ | .readCountersClear _
  | .readHold _ | .flushRelease _ | .flushRefuse _ | .readCapture | .clearCapture | .setMode _ | .ackAlert _
  | .setAlertEnable _ | .refclkStop | .refclkResume | .endOfBreak => true

end Sys2Proof
end

