-- ==== Sys2Proof/Decode.lean ====
section
/-! DEFINITION. The command a table word spells. No row of spec/opcode_table.json gives bits: every row's "fields" is
empty and none has a "fixed" (98_reader.md counts 0 rows with either), so no word spells a command. -/

namespace Sys2Proof

/-- The command that the `nbits` bits `w` spell by the table: none, for every row, since no row gives bits. -/
def decodeTableWord (_nbits _w : Nat) : Option Instr := none

end Sys2Proof
end

