-- ==== Sys2Proof/Machine/State.lean ====
section
/-! DEFINITION. The state of the VBR-160: one field per block of the Functional Block Overview (00_scope.md), the queue
of waiting commands, and the state after a power-on reset. -/

namespace Sys2Proof.Machine

/-! ### Configuration Store (ch. 1, 2, 7) -/

/-- The mode of an account (section 1.1). -/
inductive AccountMode where
  | meter
  | hold
  | refuse
deriving DecidableEq, Repr

/-- The eight parameters of an account (section 1.1). -/
structure AccountParams where
  mode     : AccountMode
  quantum  : Nat
  extra    : Nat
  ceiling  : Nat
  weight   : Nat
  cap      : Nat
  maxWait  : Nat
  priority : Nat
deriving DecidableEq, Repr

/-- The directions a map entry admits (R24). -/
inductive DirectionFilter where
  | both
  | read
  | write
deriving DecidableEq, Repr

/-- A classification map entry (R21). -/
structure MapEntry where
  valid     : Bool
  idValue   : RequesterId
  idMask    : RequesterId
  basePage  : Page
  limitPage : Page
  filter    : DirectionFilter
  account   : AccountIndex
deriving DecidableEq, Repr

/-- The unmapped action: "account n" or REFUSE (R26). -/
inductive UnmappedAction where
  | account (a : AccountIndex)
  | refuse
deriving DecidableEq, Repr

/-- One copy of the configuration: 16 parameter sets, 24 map entries, three globals (R119). -/
structure Configuration where
  accounts    : Vector AccountParams 16
  map         : Vector MapEntry 24
  prescale    : Nat
  sliceLength : Nat
  unmapped    : UnmappedAction
deriving DecidableEq, Repr

/-- The Configuration Store: the two copies and the commit-pending flag (R119). -/
structure ConfigStore where
  staged        : Configuration
  live          : Configuration
  commitPending : Bool
deriving DecidableEq, Repr

/-! ### Account Table (ch. 1) -/

/-- The nine counters of an account (section 1.1). -/
structure Counters where
  issuedRequests  : Nat
  issuedBeats     : Nat
  holds           : Nat
  creditRefusals  : Nat
  expiries        : Nat
  flushRefusals   : Nat
  overdrawCredits : Nat
  peakHeld        : Nat
  peakWait        : Nat
deriving DecidableEq, Repr

/-- The running state and the counters of an account (R1). -/
structure Account where
  balance     : Nat
  outstanding : Nat
  held        : Nat
  counters    : Counters
deriving DecidableEq, Repr

/-! ### Hold Pool (ch. 5) -/

/-- The blocker found by the admission test (R59). -/
inductive Blocker where
  | none
  | idOrder
  | hazard
  | accountOrder
  | cap
  | credit
deriving DecidableEq, Repr

/-- The cause of a refusal (R77). -/
inductive Cause where
  | credit
  | expired
  | flushed
  | unmapped
  | malformed
deriving DecidableEq, Repr

/-- The record of a HELD slot (R76). -/
structure HeldRecord where
  req     : Request
  account : AccountIndex
  wait    : Nat
  exempt  : Bool
  blocker : Blocker
deriving DecidableEq, Repr

/-- The record of a REFUSING slot (R77). The account is absent for UNMAPPED and MALFORMED. -/
structure RefusingRecord where
  id      : RequesterId
  tag     : Tag
  dir     : Direction
  cause   : Cause
  account : Option AccountIndex
deriving DecidableEq, Repr

/-- What an occupied slot holds (R74). -/
inductive PoolRecord where
  | held (h : HeldRecord)
  | refusing (r : RefusingRecord)
deriving DecidableEq, Repr

/-- An occupied slot. The Hold Pool is the list of these in pool order (R75); a slot in no entry is FREE. -/
structure PoolEntry where
  slot   : SlotIndex
  record : PoolRecord
deriving DecidableEq, Repr

/-! ### Ports, Outstanding Table, Response Merger (ch. 4, 6) -/

/-- The offered head and the two facts kept about it (R53). -/
structure Head where
  req             : Request
  tagWaitCounted  : Bool
  slotWaitCounted : Bool
deriving DecidableEq, Repr

/-- The status of a response record sent to the host (R112, R113). -/
inductive HostStatus where
  | okay
  | memFault
  | refused (cause : Cause)
deriving DecidableEq, Repr

/-- A response record sent to the host (R112, R113). -/
structure HostResponse where
  id     : RequesterId
  tag    : Tag
  status : HostStatus
  data   : Option (List Beat)
deriving DecidableEq, Repr

/-- The Host Port. `sent` is the model's own output: the last response record sent to the host (log 11). -/
structure HostPort where
  head      : Option Head
  tagWaits  : Nat
  slotWaits : Nat
  sent      : Option HostResponse
deriving DecidableEq, Repr

/-- The Memory Port. `resp` is the response offered and not yet taken (R107). `issued` is the model's own output: the
last request handed to the M-port (log 11). -/
structure MemoryPort where
  resp   : Option MemoryResponse
  strays : Nat
  issued : Option Request
deriving DecidableEq, Repr

/-- An entry of the Outstanding Table (R105). -/
structure OutstandingEntry where
  id      : RequesterId
  tag     : Tag
  account : AccountIndex
deriving DecidableEq, Repr

/-- The preference of the Response Merger (R111). -/
inductive Preference where
  | memory
  | refusal
deriving DecidableEq, Repr

/-! ### Time Base, Regulation Control, Capture Ring, Alert Unit (ch. 3, 8, 9) -/

/-- The four counts of the Time Base (R34). `dropsTick` is the model's own: the command that waits
next is a tick that falls together with the regulation restart just taken, and is discarded (R47, log 6). -/
structure TimeBase where
  cycle     : Nat
  tick      : Nat
  slice     : Nat
  period    : Nat
  dropsTick : Bool := false
deriving DecidableEq, Repr

/-- The global mode (R133). -/
inductive GlobalMode where
  | pass
  | enforce
deriving DecidableEq, Repr

/-- Regulation Control: the global mode and the REGEN level (R133). -/
structure RegulationControl where
  mode      : GlobalMode
  regenHigh : Bool
deriving DecidableEq, Repr

/-- A capture record (R144). -/
structure CaptureRecord where
  seq     : Nat
  cause   : Cause
  account : Option AccountIndex
  id      : RequesterId
  tag     : Tag
  dir     : Direction
  addr    : Addr
  len     : Nat
  period  : Nat
  slice   : Nat
deriving DecidableEq, Repr

/-- The Capture Ring, oldest record first (R143). -/
structure CaptureRing where
  records : List CaptureRecord
  lost    : Nat
  seq     : Nat
deriving DecidableEq, Repr

/-- The Alert Unit: causes and enables by the bit positions of R186. -/
structure AlertUnit where
  causes  : BitVec 6
  enables : BitVec 6
deriving DecidableEq, Repr

/-! ### Link Interface (ch. 10) -/

/-- The status of a response frame (R186). -/
inductive Status where
  | done
  | accepted
  | checkFail
  | unknownCommand
  | badPayload
  | range
  | pending
  | invalid
deriving DecidableEq, Repr

/-- The frame being received: code, length byte once received, payload bytes so far, running sum (section 10.3). -/
structure Frame where
  code    : Byte
  length  : Option Nat
  payload : List Byte
  sum     : Byte
deriving DecidableEq, Repr

/-- The response being sent: its status and payload, how many of its characters are over, whether it has begun on MDO,
and the REFCLK cycles of the turnaround that have passed (section 10.3, R165). -/
structure Response where
  status     : Status
  payload    : List Byte
  sent       : Nat
  begun      : Bool
  turnaround : Nat
deriving DecidableEq, Repr

/-- The link state (section 10.3). The note of DISCARDING is whether the discarded frame was a broadcast one. -/
inductive LinkState where
  | unselected
  | selected
  | receiving (f : Frame)
  | discarding (wasBroadcast : Bool)
  | responding (r : Response)
  | broadcast
  | broadcastReceiving (f : Frame)
deriving DecidableEq, Repr

/-- A character on MDO and the REFCLK cycles of it that have passed (R154, R156). -/
structure MdoCharacter where
  byte    : Byte
  elapsed : Nat
deriving DecidableEq, Repr

/-- The receiver on MDI (R156): it waits for an idle high, or for the fall that starts a character; it samples a character,
with the REFCLK cycles since that fall and the data and mark bits sampled so far; or it holds a character whose stop bit
sampled 0, until a rise or a break settles it. -/
inductive Receiver where
  | waitHigh
  | ready
  | character (elapsed : Nat) (bits : List Bool)
  | unsettled
deriving DecidableEq, Repr

/-- The Link Interface. `mdo` is none while MDO is released; `inBreak` holds from a break until MDI goes high (R157);
`lowFor` counts the REFCLK cycles MDI has been low since its last fall (R157). -/
structure LinkInterface where
  state    : LinkState
  gapTimer : Nat
  mdo      : Option MdoCharacter
  inBreak  : Bool
  receiver : Receiver
  lowFor   : Nat
  errors   : Nat
deriving DecidableEq, Repr

/-! ### Power-on reset and initialisation (ch. 8) -/

/-- The start of the part's life (R138, R139, R140): a power-on reset, until initialisation begins; initialisation; operation. -/
inductive Phase where
  | inReset
  | initialising
  | running
deriving DecidableEq, Repr

/-- Reset, REFCLK, the two sources of a reset and the sampled straps (R138, R139): `resetnLow` while RESETn asserts the reset,
`supplyLow` while the detector does, that is, while the supply is below its threshold (R141). -/
structure Power where
  phase     : Phase
  refclk    : Bool
  resetnLow : Bool
  supplyLow : Bool
  station   : BitVec 5
  rate      : BitVec 2
deriving DecidableEq, Repr

/-- The state of the VBR-160, and two inputs of the model: the levels on MDI in the REFCLK cycles to come, the next first and
high after the last (log 18), and the queue of the commands that wait, first in, first out. -/
structure State where
  power       : Power
  reg         : RegulationControl
  hostPort    : HostPort
  memPort     : MemoryPort
  accounts    : Vector Account 16
  time        : TimeBase
  pool        : List PoolEntry
  outstanding : List OutstandingEntry
  merger      : Preference
  store       : ConfigStore
  capture     : CaptureRing
  alert       : AlertUnit
  link        : LinkInterface
  mdi         : List Bool
  pending     : List Instr
deriving DecidableEq, Repr

/-- The reasons a command could stop the block with a fault: none. The data sheet gives every event an effect, so no
command faults. -/
inductive Fault
deriving DecidableEq, Repr

/-- The reasons a command could be refused. -/
inductive Refusal where
  /-- Raised by an arm of `exec` for a row without a meaning; no arm raises it. Safe. -/
  | notModelled (mnemonic : String)
deriving DecidableEq, Repr

/-! ### Power-on values -/

/-- METER, Q 0, E 0, C 0, W 1, cap 0, T 0, P 0 (R19). -/
def AccountParams.powerOn : AccountParams :=
  { mode := .meter, quantum := 0, extra := 0, ceiling := 0, weight := 1, cap := 0, maxWait := 0, priority := 0 }

/-- valid no, filter BOTH, every other field 0 (R32). -/
def MapEntry.powerOn : MapEntry :=
  { valid := false, idValue := 0, idMask := 0, basePage := 0, limitPage := 0, filter := .both, account := 0 }

/-- The default configuration, the same for both copies (R19, R32, R48, R130). -/
def Configuration.powerOn : Configuration :=
  { accounts := Vector.replicate 16 .powerOn
    map := Vector.replicate 24 .powerOn
    prescale := Config.powerOnPrescale
    sliceLength := Config.powerOnSliceLength
    unmapped := .account 0 }

/-- All nine counters 0 (R19). -/
def Counters.zero : Counters := ⟨0, 0, 0, 0, 0, 0, 0, 0, 0⟩

/-- Balance, counts and counters 0 (R19). -/
def Account.powerOn : Account := { balance := 0, outstanding := 0, held := 0, counters := .zero }

/-- POWERED is bit 4 of the causes and of the enables (R153, R186). -/
def AlertUnit.powerOn : AlertUnit := { causes := 0x10, enables := 0x10 }

/-- UNSELECTED, MDO released, no errors, no character before an idle high (R159, R168). -/
def LinkInterface.powerOn : LinkInterface :=
  { state := .unselected, gapTimer := 0, mdo := none, inBreak := false, receiver := .waitHigh, lowFor := 0, errors := 0 }

/-- The machine right after a power-on reset (R138 and the rules it lists): its sources have released it, and initialisation is
about to begin (log 8, log 15). -/
def State.reset : State :=
  { power := { phase := .inReset, refclk := true, resetnLow := false, supplyLow := false, station := 0, rate := 0 }
    reg := { mode := .pass, regenHigh := false }
    hostPort := { head := none, tagWaits := 0, slotWaits := 0, sent := none }
    memPort := { resp := none, strays := 0, issued := none }
    accounts := Vector.replicate 16 .powerOn
    time := { cycle := 0, tick := 0, slice := 0, period := 0 }
    pool := []
    outstanding := []
    merger := .memory
    store := { staged := .powerOn, live := .powerOn, commitPending := false }
    capture := { records := [], lost := 0, seq := 0 }
    alert := .powerOn
    link := .powerOn
    mdi := []
    pending := [] }

end Sys2Proof.Machine
end

