-- ==== Sys2Proof/Machine/Flags.lean ====
section
/-! DEFINITION. Flags: the six alert causes and the ALERTn line (R150 to R153, R186), regulation active (R133), the
flags byte of STATUS (R189). -/

namespace Sys2Proof.Machine

/-- The six alert causes (R150). -/
inductive AlertCause where
  | captured
  | commitDone
  | slotStall
  | stray
  | powered
  | linkError
deriving DecidableEq, Repr

/-- The bit of each cause within a mask (R186). -/
def AlertCause.mask : AlertCause → BitVec 6
  | .captured => 0x01
  | .commitDone => 0x02
  | .slotStall => 0x04
  | .stray => 0x08
  | .powered => 0x10
  | .linkError => 0x20

/-- A cause is set, whether or not it is set already and whether or not it is enabled (R150). -/
def setCause (c : AlertCause) (s : State) : State :=
  { s with alert := { s.alert with causes := s.alert.causes ||| c.mask } }

/-- Bits 0 to 5 of a mask byte name the causes; bits 6 and 7 are ignored (R185). -/
def maskOf (b : Byte) : BitVec 6 := b.setWidth 6

/-- ACK_ALERT: every cause named is cleared (R151). -/
def ackCauses (m : BitVec 6) (s : State) : State :=
  { s with alert := { s.alert with causes := s.alert.causes &&& ~~~m } }

/-- SET_ALERT_ENABLE: the enables become the causes named (R152). -/
def setEnables (m : BitVec 6) (s : State) : State :=
  { s with alert := { s.alert with enables := m } }

/-- ALERTn is driven low while a cause is both set and enabled (R152), and not while the supply is below the threshold
(R141). -/
def alertnDriven (s : State) : Bool :=
  !s.power.supplyLow && (s.alert.causes &&& s.alert.enables) != 0

/-- Regulation active: the mode is ENFORCE and the REGEN level is high (R133). -/
def regulationActive (s : State) : Bool := s.reg.mode == .enforce && s.reg.regenHigh

/-- The flags byte of STATUS (R189). -/
def statusFlags (s : State) : Nat :=
  (if s.reg.mode = .enforce then 1 else 0) + (if s.reg.regenHigh then 2 else 0)
    + (if regulationActive s then 4 else 0) + (if s.store.commitPending then 8 else 0)

end Sys2Proof.Machine
end

