-- ==== Sys2Proof/Machine/Operands.lean ====
section
/-! DEFINITION. The fields of requests and of payloads: byte ranges, the form check, cost; how payload bytes are read as
unsigned little-endian integers and how response fields are written (R52, R54, R4, R185, R186). -/

namespace Sys2Proof.Machine

/-! ### Requests -/

/-- The last byte of the byte range: address + 8 × length − 1, on 32-bit unsigned addresses (R52). -/
def lastByte (r : Request) : Addr := r.addr + BitVec.ofNat 32 (8 * r.len) - 1

/-- The page of a byte address: the address divided by 4096 (R23). -/
def pageOf (a : Addr) : Page := a.extractLsb' 12 20

/-- The number of beats of write data a request carries. -/
def dataBeats (r : Request) : Nat :=
  match r.data with
  | none => 0
  | some beats => beats.length

/-- The form check (R54): address not a multiple of 8, byte range across a 4 KiB boundary, WRITE data of another
length, READ with data. -/
def malformed (r : Request) : Bool :=
  r.addr % 8 != 0
    || pageOf (lastByte r) != pageOf r.addr
    || (r.dir == .write && dataBeats r != r.len)
    || (r.dir == .read && r.data.isSome)

/-- Two byte ranges overlap when each begins at or before the other's last byte (R61). -/
def overlaps (a b : Request) : Bool :=
  decide (a.addr ≤ lastByte b) && decide (b.addr ≤ lastByte a)

/-- The cost of a request under an account's parameters (R4). -/
def cost (p : AccountParams) (r : Request) : Nat :=
  match r.dir with
  | .read => r.len
  | .write => r.len * p.weight

/-- An addition that stops at its maximum (00_scope.md, Counters). -/
def satAdd (limit a b : Nat) : Nat := min (a + b) limit

/-! ### Payload fields (R185) -/

/-- The integer of `n` payload bytes from offset `i`, least significant byte first. -/
def fieldAt (p : List Byte) (i : Nat) : Nat → Nat
  | 0 => 0
  | n + 1 => (p.getD i 0).toNat + 256 * fieldAt p (i + 1) n

/-- An unsigned integer written as `n` bytes, least significant byte first. -/
def fieldBytes : Nat → Nat → List Byte
  | 0, _ => []
  | n + 1, v => BitVec.ofNat 8 v :: fieldBytes n (v / 256)

/-- An account index field as an account. -/
def accountIndexOf (n : Nat) : AccountIndex := Fin.ofNat 16 n

/-- An absent account is sent as FFh (R185). -/
def encodeAccount : Option AccountIndex → Nat
  | some a => a.val
  | none => 0xFF

/-! ### Enumerations (R186) -/

/-- account mode -/
def encodeAccountMode : AccountMode → Nat
  | .meter => 0
  | .hold => 1
  | .refuse => 2

/-- account mode; called on values in range -/
def decodeAccountMode : Nat → AccountMode
  | 0 => .meter
  | 1 => .hold
  | _ => .refuse

/-- direction filter -/
def encodeFilter : DirectionFilter → Nat
  | .both => 0
  | .read => 1
  | .write => 2

/-- direction filter; called on values in range -/
def decodeFilter : Nat → DirectionFilter
  | 0 => .both
  | 1 => .read
  | _ => .write

/-- direction of a request -/
def encodeDirection : Direction → Nat
  | .read => 0
  | .write => 1

/-- unmapped action -/
def encodeUnmapped : UnmappedAction → Nat
  | .account a => a.val
  | .refuse => 0xFF

/-- unmapped action; called on values in range -/
def decodeUnmapped (n : Nat) : UnmappedAction :=
  if n = 0xFF then .refuse else .account (accountIndexOf n)

/-- yes/no, and every other one-bit enumeration -/
def encodeBool (b : Bool) : Nat := if b then 1 else 0

/-- blocker -/
def encodeBlocker : Blocker → Nat
  | .none => 0
  | .idOrder => 1
  | .hazard => 2
  | .accountOrder => 3
  | .cap => 4
  | .credit => 5

/-- refusal cause -/
def encodeCause : Cause → Nat
  | .credit => 1
  | .expired => 2
  | .flushed => 3
  | .unmapped => 4
  | .malformed => 5

/-- The status byte of a response frame. -/
def encodeStatus : Status → Byte
  | .done => 0x00
  | .accepted => 0x01
  | .checkFail => 0x02
  | .unknownCommand => 0x03
  | .badPayload => 0x04
  | .range => 0x05
  | .pending => 0x06
  | .invalid => 0x07

/-! ### Frames (R161, R165) -/

/-- The byte that makes the sum of a frame 0 modulo 256 (R162, R165). -/
def checkByte (bytes : List Byte) : Byte := 0 - bytes.sum

/-- The characters of a command frame: code, length, payload, check byte (R161). -/
def commandFrame (code : Byte) (payload : List Byte) : List Byte :=
  let body := code :: BitVec.ofNat 8 payload.length :: payload
  body ++ [checkByte body]

/-- The characters of a response frame: status, length, payload, check byte (R165). -/
def responseFrame (r : Response) : List Byte :=
  let body := encodeStatus r.status :: BitVec.ofNat 8 r.payload.length :: r.payload
  body ++ [checkByte body]

/-! ### Records written by the link (R120, R190, R191, R192) -/

/-- The eight parameters as a payload gives them from offset `i` on, in the order of R190. -/
def decodeAccountParams (p : List Byte) (i : Nat) : AccountParams :=
  { mode := decodeAccountMode (fieldAt p i 1)
    quantum := fieldAt p (i + 1) 2
    extra := fieldAt p (i + 3) 1
    ceiling := fieldAt p (i + 4) 2
    weight := fieldAt p (i + 6) 1
    cap := fieldAt p (i + 7) 1
    maxWait := fieldAt p (i + 8) 1
    priority := fieldAt p (i + 9) 1 }

/-- The eight parameters as bytes, in the order of R190. -/
def encodeAccountParams (a : AccountParams) : List Byte :=
  fieldBytes 1 (encodeAccountMode a.mode) ++ fieldBytes 2 a.quantum ++ fieldBytes 1 a.extra
    ++ fieldBytes 2 a.ceiling ++ fieldBytes 1 a.weight ++ fieldBytes 1 a.cap ++ fieldBytes 1 a.maxWait
    ++ fieldBytes 1 a.priority

/-- The ranges of the eight parameters (R120). -/
def accountParamsInRange (p : List Byte) (i : Nat) : Bool :=
  decide (fieldAt p i 1 ≤ 2) && decide (fieldAt p (i + 1) 2 ≤ 4095) && decide (fieldAt p (i + 3) 1 ≤ 31)
    && decide (fieldAt p (i + 4) 2 ≤ 65535)
    && (decide (fieldAt p (i + 6) 1 = 1) || decide (fieldAt p (i + 6) 1 = 2))
    && decide (fieldAt p (i + 7) 1 ≤ 16) && decide (fieldAt p (i + 8) 1 ≤ 255) && decide (fieldAt p (i + 9) 1 ≤ 3)

/-- The seven fields of a map entry as a payload gives them from offset `i` on, in the order of R191. -/
def decodeMapEntry (p : List Byte) (i : Nat) : MapEntry :=
  { valid := fieldAt p i 1 == 1
    idValue := BitVec.ofNat 6 (fieldAt p (i + 1) 1)
    idMask := BitVec.ofNat 6 (fieldAt p (i + 2) 1)
    basePage := BitVec.ofNat 20 (fieldAt p (i + 3) 3)
    limitPage := BitVec.ofNat 20 (fieldAt p (i + 6) 3)
    filter := decodeFilter (fieldAt p (i + 9) 1)
    account := accountIndexOf (fieldAt p (i + 10) 1) }

/-- The seven fields of a map entry as bytes, in the order of R191. -/
def encodeMapEntry (e : MapEntry) : List Byte :=
  fieldBytes 1 (encodeBool e.valid) ++ fieldBytes 1 e.idValue.toNat ++ fieldBytes 1 e.idMask.toNat
    ++ fieldBytes 3 e.basePage.toNat ++ fieldBytes 3 e.limitPage.toNat ++ fieldBytes 1 (encodeFilter e.filter)
    ++ fieldBytes 1 e.account.val

/-- The ranges of the seven fields (R120). -/
def mapEntryInRange (p : List Byte) (i : Nat) : Bool :=
  decide (fieldAt p i 1 ≤ 1) && decide (fieldAt p (i + 1) 1 ≤ 63) && decide (fieldAt p (i + 2) 1 ≤ 63)
    && decide (fieldAt p (i + 3) 3 ≤ 1048575) && decide (fieldAt p (i + 6) 3 ≤ 1048575)
    && decide (fieldAt p (i + 9) 1 ≤ 2) && decide (fieldAt p (i + 10) 1 ≤ 15)

/-- One globals block (R192). -/
def encodeGlobals (c : Configuration) : List Byte :=
  fieldBytes 2 c.prescale ++ fieldBytes 2 c.sliceLength ++ fieldBytes 1 (encodeUnmapped c.unmapped)

/-- An unmapped action or a flush selector: 00h to 0Fh, or FFh (R186). -/
def selectorInRange (n : Nat) : Bool := decide (n ≤ 15) || decide (n = 0xFF)

/-- The ranges of the three globals (R120). -/
def globalsInRange (p : List Byte) (i : Nat) : Bool :=
  decide (fieldAt p i 2 ≤ 65535) && decide (1 ≤ fieldAt p (i + 2) 2) && decide (fieldAt p (i + 2) 2 ≤ 4096)
    && selectorInRange (fieldAt p (i + 4) 1)

/-- The range check of each command: every payload field, the index among them (R170, R185). -/
def payloadInRange (c : Command) (p : List Byte) : Bool :=
  match c with
  | .identify => true
  | .status => decide (fieldAt p 0 1 ≤ 1)
  | .readAccount => decide (fieldAt p 0 1 ≤ 15) && decide (fieldAt p 1 1 ≤ 1)
  | .writeAccount => decide (fieldAt p 0 1 ≤ 15) && accountParamsInRange p 1
  | .readMap => decide (fieldAt p 0 1 ≤ 23) && decide (fieldAt p 1 1 ≤ 1)
  | .writeMap => decide (fieldAt p 0 1 ≤ 23) && mapEntryInRange p 1
  | .readGlobals => true
  | .writeGlobals => globalsInRange p 0
  | .copyLiveToStaged => true
  | .commit => true
  | .cancelCommit => true
  | .readCounters => decide (fieldAt p 0 1 ≤ 15) && decide (fieldAt p 1 1 ≤ 1)
  | .readHold => decide (fieldAt p 0 1 ≤ 23)
  | .flush => selectorInRange (fieldAt p 0 1) && decide (fieldAt p 1 1 ≤ 1)
  | .readCapture => true
  | .clearCapture => true
  | .setMode => decide (fieldAt p 0 1 ≤ 1)
  | .ackAlert => true
  | .setAlertEnable => true

end Sys2Proof.Machine
end

