-- ==== Sys2Proof/Machine/Ops.lean ====
section
/-! DEFINITION. The shared operations on the Account Table, the Capture Ring and the slots: who may act when, account
updates, charges and counters, capture adds, free slots, tag conflicts. -/

namespace Sys2Proof.Machine

/-! ### Who takes events (R138, R139, R40) -/

/-- The ports take events from the initialisation complete event on (R140). -/
def portsOpen (s : State) : Bool := s.power.phase == .running

/-- REFCLK counts: the part is initialised (R48, R159) and REFCLK runs (R40, R168). -/
def clockRuns (s : State) : Bool := portsOpen s && s.power.refclk

/-! ### Account Table -/

/-- The live parameters of an account (R2). -/
def liveParams (s : State) (a : AccountIndex) : AccountParams := s.store.live.accounts[a]

/-- The running state and counters of an account. -/
def accountOf (s : State) (a : AccountIndex) : Account := s.accounts[a]

/-- Change one account's running state and counters. -/
def updateAccount (a : AccountIndex) (f : Account → Account) (s : State) : State :=
  { s with accounts := s.accounts.set a.val (f (accountOf s a)) a.isLt }

/-- Change every account's running state and counters. -/
def updateAllAccounts (f : AccountIndex → Account → Account) (s : State) : State :=
  { s with accounts := Vector.ofFn fun a => f a (accountOf s a) }

/-- An account is restrained while regulation is active and its live mode is HOLD or REFUSE (R3). -/
def restrained (s : State) (a : AccountIndex) : Bool :=
  regulationActive s && ((liveParams s a).mode == .hold || (liveParams s a).mode == .refuse)

/-- Per-account counters saturate at 4,294,967,295 (R15). -/
def bump (old amount : Nat) : Nat := satAdd Config.counterMax old amount

/-- The enforced charge takes the full cost (R6); a metered charge takes the smaller of the cost and the balance and
counts the remainder as overdraw credits (R7). -/
def chargeAccount (enforced : Bool) (c : Nat) (acc : Account) : Account :=
  if enforced then { acc with balance := acc.balance - c }
  else
    { acc with
      balance := acc.balance - min c acc.balance
      counters := { acc.counters with overdrawCredits := bump acc.counters.overdrawCredits (c - acc.balance) } }

/-- The changes each issue makes besides its charge (R8). -/
def countIssue (len : Nat) (acc : Account) : Account :=
  { acc with
    outstanding := acc.outstanding + 1
    counters := { acc.counters with
      issuedRequests := bump acc.counters.issuedRequests 1
      issuedBeats := bump acc.counters.issuedBeats len } }

/-- A request of the account is placed HELD (R14, R15). -/
def countHold (acc : Account) : Account :=
  { acc with
    held := acc.held + 1
    counters := { acc.counters with
      holds := bump acc.counters.holds 1
      peakHeld := max acc.counters.peakHeld (acc.held + 1) } }

/-- A HELD record of the account leaves HELD (R14). -/
def countUnhold (acc : Account) : Account := { acc with held := acc.held - 1 }

/-- The account's counter for the cause of a refusal (R15); UNMAPPED and MALFORMED have none. -/
def countRefusal (c : Cause) (acc : Account) : Account :=
  match c with
  | .credit =>
      { acc with counters := { acc.counters with creditRefusals := bump acc.counters.creditRefusals 1 } }
  | .expired => { acc with counters := { acc.counters with expiries := bump acc.counters.expiries 1 } }
  | .flushed =>
      { acc with counters := { acc.counters with flushRefusals := bump acc.counters.flushRefusals 1 } }
  | .unmapped => acc
  | .malformed => acc

/-- A memory response of the account is delivered (R13). -/
def countDelivery (acc : Account) : Account := { acc with outstanding := acc.outstanding - 1 }

/-- The grant is added to the balance and clipped to the live ceiling (R9). -/
def grantTo (ceiling amount : Nat) (acc : Account) : Account :=
  { acc with balance := min (acc.balance + amount) ceiling }

/-- The publication clip (R11). -/
def clipTo (ceiling : Nat) (acc : Account) : Account := { acc with balance := min acc.balance ceiling }

/-- The fill of a regulation restart (R12). -/
def fillTo (ceiling : Nat) (acc : Account) : Account := { acc with balance := ceiling }

/-- The nine counters are set to 0 (R18). -/
def clearCounters (acc : Account) : Account := { acc with counters := .zero }

/-! ### Capture Ring -/

/-- The record the next add makes (R144, R145), stamped by the Time Base (R50). -/
def captureRecordOf (s : State) (req : Request) (c : Cause) (a : Option AccountIndex) : CaptureRecord :=
  { seq := s.capture.seq, cause := c, account := a, id := req.id, tag := req.tag, dir := req.dir,
    addr := req.addr, len := req.len, period := s.time.period, slice := s.time.slice }

/-- One add to the ring: the sequence count advances and wraps, a full ring loses its oldest record (R145). -/
def CaptureRing.add (ring : CaptureRing) (record : CaptureRecord) : CaptureRing :=
  let seq := (ring.seq + 1) % Config.wrap16
  if ring.records.length < Config.captureMax then
    { ring with records := ring.records ++ [record], seq := seq }
  else
    { records := ring.records.drop 1 ++ [record], lost := satAdd Config.byteMax ring.lost 1, seq := seq }

/-- A refusal leaves a capture record and sets CAPTURED (R145, R150). -/
def captureAdd (req : Request) (c : Cause) (a : Option AccountIndex) (s : State) : State :=
  setCause .captured { s with capture := s.capture.add (captureRecordOf s req c a) }

/-! ### Slots, pairs -/

/-- The HELD records of a list of entries, in its order. -/
def heldRecords (pool : List PoolEntry) : List HeldRecord :=
  pool.filterMap fun e => match e.record with
    | .held h => some h
    | .refusing _ => none

/-- The REFUSING records of a list of entries, in its order. -/
def refusingRecords (pool : List PoolEntry) : List RefusingRecord :=
  pool.filterMap fun e => match e.record with
    | .held _ => none
    | .refusing r => some r

/-- The lowest-index FREE slot (R78). -/
def freeSlot (s : State) : Option SlotIndex :=
  (List.finRange 24).find? fun i => !(s.pool.any fun e => e.slot == i)

/-- The record of a slot leaves the pool; the records behind it close up (R75). -/
def removeSlot (i : SlotIndex) (s : State) : State :=
  { s with pool := s.pool.filter fun e => e.slot != i }

/-- The requester ID and tag of a pool record. -/
def recordPair : PoolRecord → RequesterId × Tag
  | .held h => (h.req.id, h.req.tag)
  | .refusing r => (r.id, r.tag)

/-- An outstanding entry carries the pair (R107). -/
def matchesOutstanding (s : State) (id : RequesterId) (tag : Tag) : Bool :=
  s.outstanding.any fun e => e.id == id && e.tag == tag

/-- The head is in tag conflict (R56). -/
def tagConflict (s : State) (req : Request) : Bool :=
  (s.pool.any fun e => recordPair e.record == (req.id, req.tag)) || matchesOutstanding s req.id req.tag

end Sys2Proof.Machine
end

