-- ==== Sys2Proof/Machine/Admission.lean ====
section
/-! DEFINITION. The Classifier (R22 to R27), the admission test (R59 to R64) and the disposition of the head (R53, R65). -/

namespace Sys2Proof.Machine

/-! ### Classifier -/

/-- The ID test (R22). -/
def idTest (e : MapEntry) (req : Request) : Bool := (req.id &&& e.idMask) == (e.idValue &&& e.idMask)

/-- The page test (R23). -/
def pageTest (e : MapEntry) (req : Request) : Bool :=
  decide (e.basePage ≤ pageOf req.addr) && decide (pageOf req.addr ≤ e.limitPage)

/-- The direction test (R24). -/
def directionTest (e : MapEntry) (req : Request) : Bool :=
  match e.filter with
  | .both => true
  | .read => req.dir == .read
  | .write => req.dir == .write

/-- An entry matches when it is valid and its three tests pass (R25). -/
def entryMatches (e : MapEntry) (req : Request) : Bool :=
  e.valid && idTest e req && pageTest e req && directionTest e req

/-- The account of a request: that of the lowest-index matching live entry (R25), else the live unmapped action's (R26);
none is an UNMAPPED refusal (R27). -/
def classify (c : Configuration) (req : Request) : Option AccountIndex :=
  match c.map.toList.find? fun e => entryMatches e req with
  | some e => some e.account
  | none =>
    match c.unmapped with
    | .account a => some a
    | .refuse => none

/-! ### The admission test -/

/-- An older HELD record has the subject's requester ID (R60). -/
def idOrderApplies (req : Request) (older : List HeldRecord) : Bool :=
  older.any fun h => h.req.id == req.id

/-- An older HELD record's byte range overlaps the subject's and one of the two is a WRITE (R61). -/
def hazardApplies (req : Request) (older : List HeldRecord) : Bool :=
  older.any fun h => overlaps h.req req && (h.req.dir == .write || req.dir == .write)

/-- An older HELD record belongs to the subject's account (R62). -/
def accountOrderApplies (a : AccountIndex) (older : List HeldRecord) : Bool :=
  older.any fun h => h.account == a

/-- CAP (R63). -/
def capApplies (s : State) (a : AccountIndex) (exempt : Bool) : Bool :=
  restrained s a && (liveParams s a).cap != 0 && !exempt
    && decide ((liveParams s a).cap ≤ (accountOf s a).outstanding)

/-- CREDIT (R64). -/
def creditApplies (s : State) (a : AccountIndex) (exempt : Bool) (req : Request) : Bool :=
  restrained s a && !exempt && decide ((accountOf s a).balance < cost (liveParams s a) req)

/-- The first blocker that applies, in the order of R59. -/
def admissionTest (s : State) (a : AccountIndex) (exempt : Bool) (req : Request) (older : List HeldRecord) :
    Blocker :=
  if idOrderApplies req older then .idOrder
  else if hazardApplies req older then .hazard
  else if accountOrderApplies a older then .accountOrder
  else if capApplies s a exempt then .cap
  else if creditApplies s a exempt req then .credit
  else .none

/-! ### The disposition of the head -/

/-- The fate the head would have (R53). -/
inductive Disposition where
  | issue (a : AccountIndex)
  | hold (a : AccountIndex) (b : Blocker)
  | refuse (c : Cause) (a : Option AccountIndex)
  | waitTag
deriving DecidableEq, Repr

/-- From blocker to disposition (R65): CREDIT refuses a head of a REFUSE account and holds any other. -/
def dispositionOf (s : State) (a : AccountIndex) (b : Blocker) : Disposition :=
  match b with
  | .none => .issue a
  | .credit => if (liveParams s a).mode = .refuse then .refuse .credit (some a) else .hold a .credit
  | .idOrder => .hold a .idOrder
  | .hazard => .hold a .hazard
  | .accountOrder => .hold a .accountOrder
  | .cap => .hold a .cap

/-- The disposition of the head, judged against the state as it stands (R53): form, tag conflict, classification,
admission test against every HELD record with exempt "no" (R59), disposition. -/
def disposition (s : State) (req : Request) : Disposition :=
  if malformed req then .refuse .malformed none
  else if tagConflict s req then .waitTag
  else
    match classify s.store.live req with
    | none => .refuse .unmapped none
    | some a => dispositionOf s a (admissionTest s a false req (heldRecords s.pool))

end Sys2Proof.Machine
end

