-- ==== Sys2Proof/Machine/Pool.lean ====
section
/-! DEFINITION. The Hold Pool and the taking of the head: re-evaluation, credit refusal, expiry (R79 to R86), flush
(R88 to R90), and the taking of a head with its tag waits and slot waits (R57, R67 to R69). -/

namespace Sys2Proof.Machine

/-! ### Re-evaluation -/

/-- The records concerned by a flush: HELD records of the account named, or of every account (R88). -/
def concerned (target : Option AccountIndex) (h : HeldRecord) : Bool :=
  match target with
  | none => true
  | some a => h.account == a

/-- The event at which the pool is judged: a change of an input of the admission test (R80), a slice boundary, which also
judges for expiry (R86), or a flush with action REFUSE, which also refuses the records concerned (R90). -/
inductive Occasion where
  | change
  | boundary
  | flushRefuse (target : Option AccountIndex)
deriving DecidableEq, Repr

/-- The record is refused by the flush itself (R90). -/
def flushedAt (o : Occasion) (h : HeldRecord) : Bool :=
  match o with
  | .change => false
  | .boundary => false
  | .flushRefuse target => concerned target h

/-- What a judgment of a HELD record ends in (R80): its blocker field takes the result, or it is refused. -/
inductive Verdict where
  | keep (b : Blocker)
  | refuse (c : Cause)
deriving DecidableEq, Repr

/-- The conditions of a credit refusal of a record whose blocker is `b` (R83). -/
def creditRefused (s : State) (h : HeldRecord) (b : Blocker) : Bool :=
  (liveParams s h.account).mode == .refuse && regulationActive s && !h.exempt && b == .credit

/-- The conditions of expiry of a record whose blocker is `b` (R86). -/
def expires (s : State) (h : HeldRecord) (b : Blocker) : Bool :=
  !h.exempt && (liveParams s h.account).maxWait != 0 && decide ((liveParams s h.account).maxWait ≤ h.wait)
    && b != .none

/-- The judgment of one HELD record against the HELD records older than it (R79, R80, R83); at a slice boundary also for
expiry, after R83 (R86); at a flush REFUSE a record concerned is refused as FLUSHED (R90). -/
def judge (s : State) (o : Occasion) (h : HeldRecord) (older : List HeldRecord) : Verdict :=
  let b := admissionTest s h.account h.exempt h.req older
  if flushedAt o h then .refuse .flushed
  else if creditRefused s h b then .refuse .credit
  else if o == .boundary && expires s h b then .refuse .expired
  else .keep b

/-- The refusing record a held record turns into (R77, R82). -/
def refusingOf (h : HeldRecord) (c : Cause) : RefusingRecord :=
  { id := h.req.id, tag := h.req.tag, dir := h.req.dir, cause := c, account := some h.account }

/-- The outcome of judging the entries in pool order, oldest first, each against the older records that are still HELD
(R80): the entries after it, and all the records refused at this event with their causes, oldest first (R82). -/
def judgePool (s : State) (o : Occasion) (older : List HeldRecord) :
    List PoolEntry → List PoolEntry × List (HeldRecord × Cause)
  | [] => ([], [])
  | e :: rest =>
    match e.record with
    | .refusing _ =>
      let out := judgePool s o older rest
      (e :: out.1, out.2)
    | .held h =>
      match judge s o h older with
      | .keep b =>
        let kept := { h with blocker := b }
        let out := judgePool s o (older ++ [kept]) rest
        ({ e with record := .held kept } :: out.1, out.2)
      | .refuse c =>
        let out := judgePool s o older rest
        ({ e with record := .refusing (refusingOf h c) } :: out.1, (h, c) :: out.2)

/-- What the refusal of a HELD record changes outside the pool (R82): held count, counter of the cause, capture. -/
def recordRefusal (s : State) (r : HeldRecord × Cause) : State :=
  captureAdd r.1.req r.2 (some r.1.account)
    (updateAccount r.1.account (fun acc => countRefusal r.2 (countUnhold acc)) s)

/-- The pool is judged and what its refusals change is recorded, oldest first (R80, R82). -/
def reevaluatePool (o : Occasion) (s : State) : State :=
  let out := judgePool s o [] s.pool
  out.2.foldl recordRefusal { s with pool := out.1 }

/-! ### Flush -/

/-- The number of records concerned (R88). -/
def concernedCount (target : Option AccountIndex) (s : State) : Nat :=
  ((heldRecords s.pool).filter (concerned target)).length

/-- A concerned record is exempt from now on (R89). -/
def releaseEntry (target : Option AccountIndex) (e : PoolEntry) : PoolEntry :=
  match e.record with
  | .held h => if concerned target h then { e with record := .held { h with exempt := true } } else e
  | .refusing _ => e

/-- RELEASE sets the exempt flag of every concerned record (R89). -/
def releaseRecords (target : Option AccountIndex) (s : State) : State :=
  { s with pool := s.pool.map (releaseEntry target) }

/-- REFUSE turns every concerned record into a REFUSING record with cause FLUSHED, and the records behind them are judged
without them; all the refusals of the event are made in pool order (R90, R82, R145). -/
def refuseRecords (target : Option AccountIndex) (s : State) : State := reevaluatePool (.flushRefuse target) s

/-! ### Ageing -/

/-- One more slice boundary seen while HELD, saturating at 255 (R85). -/
def ageRecord (h : HeldRecord) : HeldRecord := { h with wait := satAdd Config.byteMax h.wait 1 }

/-- The greatest wait of the account's HELD records (R16). -/
def greatestWait (pool : List PoolEntry) (a : AccountIndex) : Nat :=
  (((heldRecords pool).filter fun h => h.account == a).map fun h => h.wait).foldl max 0

/-- A HELD record ages in its slot; a REFUSING record has no wait (R85). -/
def ageEntry (e : PoolEntry) : PoolEntry :=
  match e.record with
  | .held h => { e with record := .held (ageRecord h) }
  | .refusing _ => e

/-- Every HELD record ages; peak wait follows (R85, R16). -/
def agePool (s : State) : State :=
  let aged := s.pool.map ageEntry
  updateAllAccounts
    (fun a acc => { acc with counters :=
      { acc.counters with peakWait := max acc.counters.peakWait (greatestWait aged a) } })
    { s with pool := aged }

/-! ### The head -/

/-- The head is taken HELD into a FREE slot (R67, R78, R29). -/
def takeHeld (req : Request) (a : AccountIndex) (b : Blocker) (slot : SlotIndex) (s : State) : State :=
  updateAccount a countHold
    { s with
      pool := s.pool ++
        [⟨slot, .held { req := req, account := a, wait := 0, exempt := false, blocker := b }⟩]
      hostPort := { s.hostPort with head := none } }

/-- The head is taken REFUSING into a FREE slot: its write data is dropped, a capture record is made, and cause CREDIT is
counted to the account (R68, R78). -/
def takeRefusing (req : Request) (c : Cause) (a : Option AccountIndex) (slot : SlotIndex) (s : State) : State :=
  let placed : State :=
    { s with
      pool := s.pool ++
        [⟨slot, .refusing { id := req.id, tag := req.tag, dir := req.dir, cause := c, account := a }⟩]
      hostPort := { s.hostPort with head := none } }
  captureAdd req c a
    (match a with
      | some a => updateAccount a (countRefusal c) placed
      | none => placed)

/-- The head enters a tag wait: one episode per head (R57). -/
def enterTagWait (h : Head) (s : State) : State :=
  if h.tagWaitCounted then s
  else { s with hostPort := { s.hostPort with
      head := some { h with tagWaitCounted := true }
      tagWaits := satAdd Config.globalCounterMax s.hostPort.tagWaits 1 } }

/-- The head enters a slot wait: one episode per head, with SLOT_STALL (R69). -/
def enterSlotWait (h : Head) (s : State) : State :=
  if h.slotWaitCounted then s
  else setCause .slotStall
    { s with hostPort := { s.hostPort with
      head := some { h with slotWaitCounted := true }
      slotWaits := satAdd Config.globalCounterMax s.hostPort.slotWaits 1 } }

/-- The disposition of the head is judged and the head is taken into a slot if it can be (R53, R57, R67, R68, R69). A head
in tag conflict is not taken, a malformed one neither. -/
def judgeHead (s : State) : State :=
  match s.hostPort.head with
  | none => s
  | some h =>
    if tagConflict s h.req then enterTagWait h s
    else
      match disposition s h.req with
      | .issue _ => s
      | .waitTag => s
      | .hold a b =>
        match freeSlot s with
        | some slot => takeHeld h.req a b slot s
        | none => enterSlotWait h s
      | .refuse c a =>
        match freeSlot s with
        | some slot => takeRefusing h.req c a slot s
        | none => enterSlotWait h s

/-- The reaction to an event that changes an input of the admission test: the pool is re-evaluated, then the head is
judged against the settled pool (R80, R53). -/
def settle (s : State) : State := judgeHead (reevaluatePool .change s)

end Sys2Proof.Machine
end

