-- ==== Sys2Proof/Machine/Ports.lean ====
section
/-! DEFINITION. The Issue Arbiter, the Outstanding Table, memory responses and the Response Merger (R100 to R113). -/

namespace Sys2Proof.Machine

/-! ### Issue -/

/-- A candidate of the Issue Arbiter (R101). -/
inductive Candidate where
  | held (slot : SlotIndex) (h : HeldRecord)
  | head (req : Request) (a : AccountIndex)
deriving DecidableEq, Repr

/-- The account of a candidate. -/
def Candidate.account : Candidate → AccountIndex
  | .held _ h => h.account
  | .head _ a => a

/-- The eligible HELD records with their slots, in pool order (R81, R101). -/
def eligibleHeld (s : State) : List Candidate :=
  s.pool.filterMap fun e => match e.record with
    | .held h => if h.blocker = .none then some (.held e.slot h) else none
    | .refusing _ => none

/-- The head, if its disposition is ISSUE (R101). -/
def headCandidate (s : State) : List Candidate :=
  match s.hostPort.head with
  | none => []
  | some h =>
    match disposition s h.req with
    | .issue a => [.head h.req a]
    | .hold _ _ => []
    | .refuse _ _ => []
    | .waitTag => []

/-- The candidates in order of preference at equal priority: HELD records oldest first, then the head (R102). -/
def candidates (s : State) : List Candidate := eligibleHeld s ++ headCandidate s

/-- The first candidate of the highest priority (R102). -/
def pickFrom (s : State) : List Candidate → Option Candidate
  | [] => none
  | c :: rest =>
    match pickFrom s rest with
    | none => some c
    | some d =>
      if (liveParams s c.account).priority < (liveParams s d.account).priority then some d else some c

/-- The pick of the Issue Arbiter (R102). -/
def pick (s : State) : Option Candidate := pickFrom s (candidates s)

/-- The issue of a request: handed to the M-port, charged, counted, and entered in the Outstanding Table (R103, R106,
R6 to R8). -/
def issueRequest (req : Request) (a : AccountIndex) (exempt : Bool) (s : State) : State :=
  let enforced := restrained s a && !exempt
  let c := cost (liveParams s a) req
  let charged := updateAccount a (fun acc => countIssue req.len (chargeAccount enforced c acc)) s
  { charged with
    outstanding := charged.outstanding ++ [{ id := req.id, tag := req.tag, account := a }]
    memPort := { charged.memPort with issued := some req } }

/-- The issue of the picked candidate and what follows at the same event: a HELD record leaves the pool (R96), a head
leaves the channel (R66); the pool is re-evaluated and the head judged (R103). -/
def issueCandidate (c : Candidate) (s : State) : State :=
  match c with
  | .held slot h =>
    settle (updateAccount h.account countUnhold (removeSlot slot (issueRequest h.req h.account h.exempt s)))
  | .head req a =>
    let issued := issueRequest req a false s
    settle { issued with hostPort := { issued.hostPort with head := none } }

/-- An M-port ready event (R100): with fewer than 16 outstanding and a candidate, one issue; else it lapses. -/
def mPortReady (s : State) : State :=
  if portsOpen s && decide (s.outstanding.length < Config.outstandingMax) then
    match pick s with
    | some c => issueCandidate c s
    | none => s
  else s

/-! ### Memory responses -/

/-- A stray response is taken and dropped: counted, STRAY set (R108). -/
def strayResponse (s : State) : State :=
  setCause .stray
    { s with memPort := { s.memPort with
      resp := none
      strays := satAdd Config.globalCounterMax s.memPort.strays 1 } }

/-- The response offered on the M-port is matched against the Outstanding Table (R107). -/
def matchResponse (s : State) : State :=
  match s.memPort.resp with
  | none => s
  | some r => if matchesOutstanding s r.id r.tag then s else strayResponse s

/-- The memory side offers a response (R107). A waiting response holds the channel; before the initialisation complete
event the response is offered and not yet matched (R118). -/
def offerResponse (r : MemoryResponse) (s : State) : State :=
  if s.memPort.resp.isSome then s
  else
    let offered := { s with memPort := { s.memPort with resp := some r } }
    if portsOpen s then matchResponse offered else offered

/-! ### The Response Merger -/

/-- The response record of a memory response: its status and read data as given by memory (R112). -/
def hostResponseOf (r : MemoryResponse) : HostResponse :=
  { id := r.id, tag := r.tag, data := r.data
    status := match r.status with
      | .okay => .okay
      | .memFault => .memFault }

/-- The account recorded in the entry a response matches (R106). -/
def entryAccount (s : State) (id : RequesterId) (tag : Tag) : Option AccountIndex :=
  (s.outstanding.find? fun e => e.id == id && e.tag == tag).map fun e => e.account

/-- The delivery of the waiting memory response (R112): sent to the host, taken from the M-port, its entry removed, the
outstanding count of its account decreased; then the pool is re-evaluated and the head judged. -/
def deliverMemoryResponse (r : MemoryResponse) (s : State) : State :=
  let delivered : State :=
    { s with
      hostPort := { s.hostPort with sent := some (hostResponseOf r) }
      memPort := { s.memPort with resp := none }
      outstanding := s.outstanding.filter fun e => !(e.id == r.id && e.tag == r.tag)
      merger := .refusal }
  settle
    (match entryAccount s r.id r.tag with
      | some a => updateAccount a countDelivery delivered
      | none => delivered)

/-- The refusal candidate: the oldest REFUSING record and its slot (R97). -/
def oldestRefusing (pool : List PoolEntry) : Option (SlotIndex × RefusingRecord) :=
  pool.findSome? fun e => match e.record with
    | .held _ => none
    | .refusing r => some (e.slot, r)

/-- The delivery of a refusal (R113, R97): REFUSED with its cause and no read data, the slot FREE; no HELD record is
re-evaluated, the head is judged. -/
def deliverRefusal (slot : SlotIndex) (r : RefusingRecord) (s : State) : State :=
  let freed := removeSlot slot s
  judgeHead
    { freed with
      hostPort := { freed.hostPort with
        sent := some { id := r.id, tag := r.tag, status := .refused r.cause, data := none } }
      merger := .memory }

/-- An H-port ready event (R110, R111): one delivery chosen by what waits and by the preference, or a lapse. -/
def hPortReady (s : State) : State :=
  if portsOpen s then
    match s.memPort.resp, oldestRefusing s.pool with
    | none, none => s
    | some r, none => deliverMemoryResponse r s
    | none, some (slot, f) => deliverRefusal slot f s
    | some r, some (slot, f) =>
      match s.merger with
      | .memory => deliverMemoryResponse r s
      | .refusal => deliverRefusal slot f s
  else s

end Sys2Proof.Machine
end

