-- ==== Sys2Proof/Machine/Grid.lean ====
section
/-! DEFINITION. The time grid and the publication: ticks, slice and period boundaries with grant, ageing and expiry
(R35 to R45, R85, R86), publication (R126, R11) and the regulation restart (R137, R46, R12). -/

namespace Sys2Proof.Machine

/-- A pending commit is published: staged to live, commit pending cleared, COMMIT_DONE set, every balance clipped to its
new live ceiling (R126, R11). -/
def publish (s : State) : State :=
  let published := setCause .commitDone
    { s with store := { s.store with live := s.store.staged, commitPending := false } }
  updateAllAccounts (fun a acc => clipTo (liveParams published a).ceiling acc) published

/-- A publication, if a commit is pending (R126). -/
def publishIfPending (s : State) : State := if s.store.commitPending then publish s else s

/-- The amount granted at the boundary of the slice with the given index (R42). -/
def grantAmount (p : AccountParams) (slice : Nat) : Nat :=
  if slice < p.extra then p.quantum + 1 else p.quantum

/-- The grant to all 16 accounts (R42, R43, R9). -/
def grantAll (s : State) : State :=
  updateAllAccounts
    (fun a acc => grantTo (liveParams s a).ceiling (grantAmount (liveParams s a) s.time.slice) acc) s

/-- The counts at a slice boundary (R36); at the boundary of slice 0 the period number advances and wraps (R37). -/
def advanceSlice (t : TimeBase) : TimeBase :=
  let slice := (t.slice + 1) % Config.slicesPerPeriod
  { cycle := 0
    tick := 0
    slice := slice
    period := if slice = 0 then (t.period + 1) % Config.wrap16 else t.period }

/-- The next slice boundary is a period boundary (R37). -/
def atPeriodEnd (s : State) : Bool := (advanceSlice s.time).slice == 0

/-- The state at a slice boundary as its expiry judgment finds it: counts advanced, at a period boundary a pending commit
published (R127), the grant made (R45), HELD records aged (R85). -/
def beforeExpiry (s : State) : State :=
  let advanced := { s with time := advanceSlice s.time }
  let published := if atPeriodEnd s then publishIfPending advanced else advanced
  agePool (grantAll published)

/-- A slice boundary, one whole event (R36, R37, R42, R85, R86): then the head is judged. -/
def sliceBoundaryEvent (s : State) : State := judgeHead (reevaluatePool .boundary (beforeExpiry s))

/-- Some record expires at the next slice boundary (R86). -/
def expiryDue (s : State) : Bool :=
  let judged := beforeExpiry s
  (judgePool judged .boundary [] judged.pool).2.any fun r => r.2 == .expired

/-- A tick (R35, R36): the cycle count returns to 0; the tick that completes L ticks is a slice boundary instead. -/
def tickEvent (s : State) : State :=
  if s.time.tick + 1 < s.store.live.sliceLength then
    { s with time := { s.time with cycle := 0, tick := s.time.tick + 1 } }
  else sliceBoundaryEvent s

/-- The tick that falls together with a restart is over: a tick from now on is counted (R47). -/
def pastRestart (s : State) : State := { s with time := { s.time with dropsTick := false } }

/-- One REFCLK cycle at the Time Base (R35). -/
def gridCycle (s : State) : State :=
  if s.time.cycle + 1 < s.store.live.prescale + 1 then
    { s with time := { s.time with cycle := s.time.cycle + 1, dropsTick := false } }
  else tickEvent (pastRestart s)

/-- What a tick brings, taken as an event: nothing while REFCLK is stopped (R40); a tick that fell together with a restart and
is taken after it is discarded, with the boundary it would have made (R47). -/
def atTick (bring : State → State) (s : State) : State :=
  if clockRuns s then
    if s.time.dropsTick then pastRestart s else bring s
  else s

/-- The command directly behind a restart is a tick that falls together with it (R47, log 6): the REFCLK cycle in progress
completes the tick, and where the command names the slice boundary, the tick completes the slice. A tick that is not due at the
restart is a later one, and counts (R46). -/
def tickFallsTogether (s : State) : Bool :=
  let next := s.pending.head?
  let ofBoundary := [.sliceBoundary, .periodBoundary, .expiry, .publication].any fun i => next == some i
  s.power.refclk && decide (s.store.live.prescale ≤ s.time.cycle) &&
    (next == some .tick || (ofBoundary && decide (s.store.live.sliceLength ≤ s.time.tick + 1)))

/-- The regulation restart (R137): the REGEN level goes high, a pending commit is published, the counts are set to 0, every
balance is filled to its live ceiling, the pool is re-evaluated and the head judged. A tick that falls together with it and is
taken after it is discarded (R47). The judged head can be refused, with its capture record and CAPTURED (R144, R50), or enter
a slot wait, with its count and SLOT_STALL (R69), at the restart: the model's choice where R137, R150 and R153 have the restart
leave the Capture Ring, the global counters and every cause but COMMIT_DONE (log 13). -/
def restartEvent (s : State) : State :=
  let raised := publishIfPending { s with reg := { s.reg with regenHigh := true } }
  let restarted := { raised with time :=
    { cycle := 0, tick := 0, slice := 0, period := 0, dropsTick := tickFallsTogether s } }
  settle (updateAllAccounts (fun a acc => fillTo (liveParams restarted a).ceiling acc) restarted)

/-- A fall of REGEN (R136). -/
def regenFallEvent (s : State) : State := settle { s with reg := { s.reg with regenHigh := false } }

/-- A change of global mode (R134). -/
def setGlobalMode (m : GlobalMode) (s : State) : State := settle { s with reg := { s.reg with mode := m } }

end Sys2Proof.Machine
end

