-- ==== Sys2Proof/Machine/Executor.lean ====
section
/-! DEFINITION. The Command Executor: the checks of R170, the effect of every command (ch. 11) and the layout of every
response (ch. 12). -/

namespace Sys2Proof.Machine

/-- What the executor fixes for the response (R162). -/
structure Reply where
  status  : Status
  payload : List Byte
deriving DecidableEq, Repr

/-- A refusal, or a success without a payload. -/
def replyOnly (st : Status) : Reply := { status := st, payload := [] }

/-- DONE with a payload. -/
def replyDone (payload : List Byte) : Reply := { status := .done, payload := payload }

/-! ### Reports -/

/-- The Identify block (R188). -/
def identifyBlock (s : State) : List Byte :=
  fieldBytes 2 Config.vendorCode ++ fieldBytes 2 Config.partCode ++ fieldBytes 1 Config.revision
    ++ fieldBytes 1 s.power.station.toNat ++ fieldBytes 1 16 ++ fieldBytes 1 24 ++ fieldBytes 1 24
    ++ fieldBytes 1 16 ++ fieldBytes 1 8

/-- The Status block (R189). -/
def statusBlock (s : State) : List Byte :=
  fieldBytes 1 (statusFlags s) ++ fieldBytes 2 s.time.period ++ fieldBytes 1 s.time.slice
    ++ fieldBytes 1 (heldRecords s.pool).length ++ fieldBytes 1 (refusingRecords s.pool).length
    ++ fieldBytes 1 s.outstanding.length ++ fieldBytes 1 s.capture.records.length
    ++ fieldBytes 1 s.capture.lost ++ fieldBytes 1 s.alert.causes.toNat ++ fieldBytes 1 s.alert.enables.toNat
    ++ fieldBytes 2 s.memPort.strays ++ fieldBytes 1 s.link.errors ++ fieldBytes 2 s.hostPort.slotWaits
    ++ fieldBytes 2 s.hostPort.tagWaits

/-- STATUS with clear sets the four global counters to 0 (R174). -/
def clearGlobalCounters (s : State) : State :=
  { s with
    memPort := { s.memPort with strays := 0 }
    link := { s.link with errors := 0 }
    hostPort := { s.hostPort with slotWaits := 0, tagWaits := 0 } }

/-- The copy a copy field names (R186). -/
def copyOf (s : State) (copy : Nat) : Configuration := if copy = 1 then s.store.live else s.store.staged

/-- The READ_ACCOUNT response: 16 bytes for LIVE, 12 for STAGED (R190, R20). -/
def accountBlock (s : State) (index copy : Nat) : List Byte :=
  let a := accountIndexOf index
  let head := fieldBytes 1 index ++ fieldBytes 1 copy ++ encodeAccountParams (copyOf s copy).accounts[a]
  if copy = 1 then
    head ++ fieldBytes 2 (accountOf s a).balance ++ fieldBytes 1 (accountOf s a).outstanding
      ++ fieldBytes 1 (accountOf s a).held
  else head

/-- The READ_MAP response (R191). -/
def mapBlock (s : State) (index copy : Nat) : List Byte :=
  fieldBytes 1 index ++ fieldBytes 1 copy ++ encodeMapEntry (copyOf s copy).map[Fin.ofNat 24 index]

/-- The READ_GLOBALS response: the staged block, then the live block (R192). -/
def globalsBlock (s : State) : List Byte := encodeGlobals s.store.staged ++ encodeGlobals s.store.live

/-- The READ_COUNTERS response (R193). -/
def countersBlock (s : State) (index : Nat) : List Byte :=
  let k := (accountOf s (accountIndexOf index)).counters
  fieldBytes 1 index ++ fieldBytes 4 k.issuedRequests ++ fieldBytes 4 k.issuedBeats ++ fieldBytes 4 k.holds
    ++ fieldBytes 4 k.creditRefusals ++ fieldBytes 4 k.expiries ++ fieldBytes 4 k.flushRefusals
    ++ fieldBytes 4 k.overdrawCredits ++ fieldBytes 1 k.peakHeld ++ fieldBytes 1 k.peakWait

/-- The record of a slot, or none where it is FREE (R74). -/
def slotRecord (s : State) (i : SlotIndex) : Option PoolRecord :=
  (s.pool.find? fun e => e.slot == i).map fun e => e.record

/-- The pool position of a slot's record: the number of records ahead of it (R75). -/
def poolPosition (s : State) (i : SlotIndex) : Nat := s.pool.findIdx fun e => e.slot == i

/-- The READ_HOLD response: 2 bytes for FREE, 8 for REFUSING, 15 for HELD (R194, R99). -/
def holdBlock (s : State) (slot : Nat) : List Byte :=
  let i : SlotIndex := Fin.ofNat 24 slot
  match slotRecord s i with
  | none => fieldBytes 1 slot ++ fieldBytes 1 0
  | some (.refusing r) =>
    fieldBytes 1 slot ++ fieldBytes 1 2 ++ fieldBytes 1 r.id.toNat ++ fieldBytes 1 r.tag.toNat
      ++ fieldBytes 1 (encodeDirection r.dir) ++ fieldBytes 1 (encodeCause r.cause)
      ++ fieldBytes 1 (encodeAccount r.account) ++ fieldBytes 1 (poolPosition s i)
  | some (.held h) =>
    fieldBytes 1 slot ++ fieldBytes 1 1 ++ fieldBytes 1 h.account.val ++ fieldBytes 1 h.req.id.toNat
      ++ fieldBytes 1 h.req.tag.toNat ++ fieldBytes 1 (encodeDirection h.req.dir)
      ++ fieldBytes 4 h.req.addr.toNat ++ fieldBytes 1 h.req.len ++ fieldBytes 1 h.wait
      ++ fieldBytes 1 (encodeBool h.exempt) ++ fieldBytes 1 (encodeBlocker h.blocker)
      ++ fieldBytes 1 (poolPosition s i)

/-- A capture record as the link carries it (R195, offsets 2 to 16). -/
def captureBytes (r : CaptureRecord) : List Byte :=
  fieldBytes 2 r.seq ++ fieldBytes 1 (encodeCause r.cause) ++ fieldBytes 1 (encodeAccount r.account)
    ++ fieldBytes 1 r.id.toNat ++ fieldBytes 1 r.tag.toNat ++ fieldBytes 1 (encodeDirection r.dir)
    ++ fieldBytes 4 r.addr.toNat ++ fieldBytes 1 r.len ++ fieldBytes 2 r.period ++ fieldBytes 1 r.slice

/-! ### Effects -/

/-- IDENTIFY (R172). -/
def performIdentify (s : State) : State × Reply := (s, replyDone (identifyBlock s))

/-- STATUS (R173, R174): the report is read before the clear. -/
def performStatus (clear : Bool) (s : State) : State × Reply :=
  (if clear then clearGlobalCounters s else s, replyDone (statusBlock s))

/-- READ_ACCOUNT (R175). -/
def performReadAccount (index copy : Nat) (s : State) : State × Reply :=
  (s, replyDone (accountBlock s index copy))

/-- Replace the staged copy. -/
def setStaged (c : Configuration) (s : State) : State := { s with store := { s.store with staged := c } }

/-- WRITE_ACCOUNT replaces the staged parameters of one account (R120). -/
def performWriteAccount (a : AccountIndex) (params : AccountParams) (s : State) : State × Reply :=
  (setStaged { s.store.staged with accounts := s.store.staged.accounts.set a.val params a.isLt } s,
    replyOnly .done)

/-- READ_MAP (R177). -/
def performReadMap (index copy : Nat) (s : State) : State × Reply := (s, replyDone (mapBlock s index copy))

/-- WRITE_MAP replaces one staged map entry (R120). -/
def performWriteMap (i : Fin 24) (entry : MapEntry) (s : State) : State × Reply :=
  (setStaged { s.store.staged with map := s.store.staged.map.set i.val entry i.isLt } s, replyOnly .done)

/-- READ_GLOBALS (R177). -/
def performReadGlobals (s : State) : State × Reply := (s, replyDone (globalsBlock s))

/-- WRITE_GLOBALS replaces the three staged globals (R120). -/
def performWriteGlobals (prescale sliceLength : Nat) (unmapped : UnmappedAction) (s : State) : State × Reply :=
  (setStaged
    { s.store.staged with prescale := prescale, sliceLength := sliceLength, unmapped := unmapped } s,
    replyOnly .done)

/-- COPY_LIVE_TO_STAGED (R121). -/
def performCopyLiveToStaged (s : State) : State × Reply := (setStaged s.store.live s, replyOnly .done)

/-- An account fails validation when it is HOLD or REFUSE and its C is less than 16 × W (R123). -/
def accountFaulty (p : AccountParams) : Bool :=
  (p.mode == .hold || p.mode == .refuse) && decide (p.ceiling < 16 * p.weight)

/-- A map entry fails validation when it is valid and its base page is greater than its limit page (R123). -/
def mapFaulty (e : MapEntry) : Bool := e.valid && decide (e.limitPage < e.basePage)

/-- The first fault of a configuration: kind, index, reason as R186 encodes them; accounts in index order, then map
entries in index order (R123). -/
def firstFault (c : Configuration) : Option (List Byte) :=
  match (List.finRange 16).find? fun i => accountFaulty c.accounts[i] with
  | some i => some (fieldBytes 1 0 ++ fieldBytes 1 i.val ++ fieldBytes 1 1)
  | none =>
    match (List.finRange 24).find? fun i => mapFaulty c.map[i] with
    | some i => some (fieldBytes 1 1 ++ fieldBytes 1 i.val ++ fieldBytes 1 2)
    | none => none

/-- COMMIT with commit pending clear: INVALID with the first fault, or ACCEPTED (R123). -/
def performCommit (s : State) : State × Reply :=
  match firstFault s.store.staged with
  | some fault => (s, { status := .invalid, payload := fault })
  | none => ({ s with store := { s.store with commitPending := true } }, replyOnly .accepted)

/-- CANCEL_COMMIT (R125). -/
def performCancelCommit (s : State) : State × Reply :=
  ({ s with store := { s.store with commitPending := false } }, replyOnly .done)

/-- READ_COUNTERS: one snapshot, and the clear at the same event (R18). -/
def performReadCounters (index : Nat) (clear : Bool) (s : State) : State × Reply :=
  (if clear then updateAccount (accountIndexOf index) clearCounters s else s,
    replyDone (countersBlock s index))

/-- READ_HOLD (R99, R180). -/
def performReadHold (slot : Nat) (s : State) : State × Reply := (s, replyDone (holdBlock s slot))

/-- FLUSH (R88 to R90): the records concerned are marked or refused, the pool is re-evaluated and the head judged, the count is
reported. -/
def performFlush (target : Option AccountIndex) (refuse : Bool) (s : State) : State × Reply :=
  (if refuse then judgeHead (refuseRecords target s) else settle (releaseRecords target s),
    replyDone (fieldBytes 1 (concernedCount target s)))

/-- READ_CAPTURE (R146): the oldest record is removed and reported. -/
def performReadCapture (s : State) : State × Reply :=
  match s.capture.records with
  | [] => (s, replyDone (fieldBytes 1 0 ++ fieldBytes 1 s.capture.lost))
  | r :: rest =>
    ({ s with capture := { s.capture with records := rest } },
      replyDone (fieldBytes 1 rest.length ++ fieldBytes 1 s.capture.lost ++ captureBytes r))

/-- CLEAR_CAPTURE (R148): the sequence count goes on. -/
def performClearCapture (s : State) : State × Reply :=
  ({ s with capture := { s.capture with records := [], lost := 0 } }, replyOnly .done)

/-- SET_MODE (R134). -/
def performSetMode (m : GlobalMode) (s : State) : State × Reply := (setGlobalMode m s, replyOnly .done)

/-- ACK_ALERT (R151). -/
def performAckAlert (mask : Byte) (s : State) : State × Reply := (ackCauses (maskOf mask) s, replyOnly .done)

/-- SET_ALERT_ENABLE (R152). -/
def performSetAlertEnable (mask : Byte) (s : State) : State × Reply :=
  (setEnables (maskOf mask) s, replyOnly .done)

/-- The account selector of FLUSH: FFh is every account (R181). -/
def flushTarget (n : Nat) : Option AccountIndex := if n = 0xFF then none else some (accountIndexOf n)

/-- A command that has passed every check is carried out on its payload (R170, R187). -/
def perform (c : Command) (p : List Byte) (s : State) : State × Reply :=
  match c with
  | .identify => performIdentify s
  | .status => performStatus (fieldAt p 0 1 == 1) s
  | .readAccount => performReadAccount (fieldAt p 0 1) (fieldAt p 1 1) s
  | .writeAccount => performWriteAccount (accountIndexOf (fieldAt p 0 1)) (decodeAccountParams p 1) s
  | .readMap => performReadMap (fieldAt p 0 1) (fieldAt p 1 1) s
  | .writeMap => performWriteMap (Fin.ofNat 24 (fieldAt p 0 1)) (decodeMapEntry p 1) s
  | .readGlobals => performReadGlobals s
  | .writeGlobals => performWriteGlobals (fieldAt p 0 2) (fieldAt p 2 2) (decodeUnmapped (fieldAt p 4 1)) s
  | .copyLiveToStaged => performCopyLiveToStaged s
  | .commit => performCommit s
  | .cancelCommit => performCancelCommit s
  | .readCounters => performReadCounters (fieldAt p 0 1) (fieldAt p 1 1 == 1) s
  | .readHold => performReadHold (fieldAt p 0 1) s
  | .flush => performFlush (flushTarget (fieldAt p 0 1)) (fieldAt p 1 1 == 1) s
  | .readCapture => performReadCapture s
  | .clearCapture => performClearCapture s
  | .setMode => performSetMode (if fieldAt p 0 1 = 1 then .enforce else .pass) s
  | .ackAlert => performAckAlert (p.getD 0 0) s
  | .setAlertEnable => performSetAlertEnable (p.getD 0 0) s

/-- The Command Executor (R169, R170): the first of the four checks that fails gives the status and changes nothing. -/
def execute (code : Byte) (payload : List Byte) (s : State) : State × Reply :=
  match commandOf code with
  | none => (s, replyOnly .unknownCommand)
  | some c =>
    if payload.length ≠ c.payloadLength then (s, replyOnly .badPayload)
    else if !payloadInRange c payload then (s, replyOnly .range)
    else if c.refusedWhilePending && s.store.commitPending then (s, replyOnly .pending)
    else perform c payload s

end Sys2Proof.Machine
end

