-- ==== Sys2Proof/Machine/Receiver.lean ====
section
/-! DEFINITION. The receiver of the Link Interface: from the levels on MDI to select values, data bytes, framing errors and
breaks (R156, R157), one REFCLK cycle at a time. A change of level comes between two cycles. -/

namespace Sys2Proof.Machine

/-- What the receiver hands to the link state machine (R156). -/
inductive LineEvent where
  | select (value : Byte)
  | data (value : Byte)
  | framingError
deriving DecidableEq, Repr

/-- The byte of the data bits of a character, the least significant bit first (R156). -/
def byteOfBits (bits : List Bool) : Byte :=
  bits.foldr (fun b acc => (acc <<< 1) ||| (if b then 1 else 0)) 0

/-- The character that eight data bits and the mark bit make: mark 1 is a select character (R156). -/
def characterOfBits (bits : List Bool) : LineEvent :=
  if bits.getD 8 false then .select (byteOfBits (bits.take 8)) else .data (byteOfBits (bits.take 8))

/-- The level on MDI at a moment between two cycles: a fall after an idle high begins a character; a rise settles a character
whose stop bit sampled 0 as a framing error (R156). That one moment of high level is the idle high for which the receiver waits at
the initialisation complete event and after a stop of REFCLK (R140, R159, R168) is the model's choice (log 22). -/
def receiverEdge (level : Bool) (r : Receiver) : Receiver × Option LineEvent :=
  match r with
  | .waitHigh => (if level then .ready else .waitHigh, none)
  | .ready => (if level then .ready else .character 0 [], none)
  | .character n bits => (.character n bits, none)
  | .unsettled => if level then (.ready, some .framingError) else (.unsettled, none)

/-- The REFCLK cycle of a character at whose begin a bit is sampled: the middle of each bit time after the start bit (R156). -/
def samplesBit (bit n : Nat) : Bool := decide (bit ≤ n) && n % bit == bit / 2

/-- One REFCLK cycle at the given level and bit time: the bits of a character are sampled, a stop bit of 0 leaves it open, and
at the end of the stop bit the character is received (R156). -/
def receiverCycle (bit : Nat) (level : Bool) (r : Receiver) : Receiver × Option LineEvent :=
  match r with
  | .waitHigh => (.waitHigh, none)
  | .ready => (.ready, none)
  | .unsettled => (.unsettled, none)
  | .character n bits =>
    if n < 10 * bit then (.character (n + 1) (if samplesBit bit n then bits ++ [level] else bits), none)
    else if samplesBit bit n && !level then (.unsettled, none)
    else if n + 1 < 11 * bit then (.character (n + 1) bits, none)
    else (if level then .ready else .waitHigh, some (characterOfBits bits))

/-- The start bit of a character has begun, and the character is neither received nor settled (R156, R164). -/
def startBitBegun (r : Receiver) : Bool :=
  match r with
  | .waitHigh => false
  | .ready => false
  | .character _ _ => true
  | .unsettled => true

end Sys2Proof.Machine
end

