-- ==== Sys2Proof/Machine/Link.lean ====
section
/-! DEFINITION. The Link Interface (ch. 10): selection, the link state machine, frames, errors and breaks, responses on
MDO, and one REFCLK cycle of its timers. -/

namespace Sys2Proof.Machine

/-! ### Events on MDI -/

/-- The receiver takes characters: initialised (R159), REFCLK running (R168), not waiting for the end of a break (R157). -/
def linkListens (s : State) : Bool := portsOpen s && s.power.refclk && !s.link.inBreak

/-- The link state changes and the gap timer starts anew: a character has ended (R164). -/
def setLinkState (st : LinkState) (s : State) : State :=
  { s with link := { s.link with state := st, gapTimer := 0 } }

/-- A counted link error: the counter increases, saturating at 255, and LINK_ERROR is set (R167). -/
def countLinkError (s : State) : State :=
  setCause .linkError { s with link := { s.link with errors := satAdd Config.byteMax s.link.errors 1 } }

/-- The waiting state a frame of the given kind returns to. -/
def idleState (wasBroadcast : Bool) : LinkState := if wasBroadcast then .broadcast else .selected

/-- The receiving state of a frame of the given kind. -/
def receivingState (isBroadcast : Bool) (f : Frame) : LinkState :=
  if isBroadcast then .broadcastReceiving f else .receiving f

/-- The link state a select value gives a station (R158). -/
def selectedState (station : BitVec 5) (value : Byte) : LinkState :=
  if value.toNat = Config.broadcastSelect then .broadcast
  else if value.toNat = station.toNat then .selected
  else .unselected

/-- A select character takes effect in every link state; the character on MDO, if any, is finished (R158, R166). -/
def selectEvent (value : Byte) (s : State) : State :=
  if linkListens s then setLinkState (selectedState s.power.station value) s else s

/-- A response whose contents are fixed and whose turnaround begins (R162, R165). -/
def startResponse (r : Reply) : LinkState :=
  .responding { status := r.status, payload := r.payload, sent := 0, begun := false, turnaround := 0 }

/-- A unicast frame completes (R162). -/
def completeUnicast (code : Byte) (payload : List Byte) (sum : Byte) (s : State) : State :=
  if sum = 0 then
    let out := execute code payload s
    setLinkState (startResponse out.2) out.1
  else setLinkState (startResponse (replyOnly .checkFail)) (countLinkError s)

/-- A code that names a write-type command; a code that names no command is treated as read-type (R163). -/
def isWriteTypeCode (code : Byte) : Bool :=
  match commandOf code with
  | some c => c.isWriteType
  | none => false

/-- A broadcast frame completes (R163). -/
def completeBroadcast (code : Byte) (payload : List Byte) (sum : Byte) (s : State) : State :=
  setLinkState .broadcast
    (if sum = 0 && isWriteTypeCode code then (execute code payload s).1 else countLinkError s)

/-- The next byte of a frame: length byte, payload byte or check byte (R161, R162, R163). -/
def frameByte (isBroadcast : Bool) (f : Frame) (b : Byte) (s : State) : State :=
  match f.length with
  | none =>
    if b.toNat ≤ Config.payloadMax then
      setLinkState (receivingState isBroadcast { f with length := some b.toNat, sum := f.sum + b }) s
    else setLinkState (.discarding isBroadcast) (countLinkError s)
  | some n =>
    if f.payload.length < n then
      setLinkState (receivingState isBroadcast { f with payload := f.payload ++ [b], sum := f.sum + b }) s
    else if isBroadcast then completeBroadcast f.code f.payload (f.sum + b) s
    else completeUnicast f.code f.payload (f.sum + b) s

/-- A data character by link state (R160). -/
def dataEvent (b : Byte) (s : State) : State :=
  if linkListens s then
    match s.link.state with
    | .unselected => s
    | .selected => setLinkState (.receiving { code := b, length := none, payload := [], sum := b }) s
    | .broadcast => setLinkState (.broadcastReceiving { code := b, length := none, payload := [], sum := b }) s
    | .receiving f => frameByte false f b s
    | .broadcastReceiving f => frameByte true f b s
    | .discarding wasBroadcast => setLinkState (.discarding wasBroadcast) s
    | .responding _ => countLinkError s
  else s

/-- A framing error by link state (R164). -/
def framingErrorEvent (s : State) : State :=
  if linkListens s then
    match s.link.state with
    | .unselected => s
    | .selected => countLinkError s
    | .broadcast => countLinkError s
    | .receiving _ => setLinkState .selected (countLinkError s)
    | .broadcastReceiving _ => setLinkState .broadcast (countLinkError s)
    | .discarding wasBroadcast => setLinkState (idleState wasBroadcast) (countLinkError s)
    | .responding _ => countLinkError s
  else s

/-- A frame timeout (R164); there is none outside a frame, and none once a start bit has begun. -/
def frameTimeoutEvent (s : State) : State :=
  if linkListens s && !startBitBegun s.link.receiver then
    match s.link.state with
    | .unselected => s
    | .selected => s
    | .broadcast => s
    | .receiving _ => setLinkState .selected (countLinkError s)
    | .broadcastReceiving _ => setLinkState .broadcast (countLinkError s)
    | .discarding wasBroadcast => setLinkState (idleState wasBroadcast) s
    | .responding _ => s
  else s

/-- A break (R157): UNSELECTED, the frame discarded, the response cut short and MDO released. A low that lasts is one
break. -/
def breakEvent (s : State) : State :=
  if linkListens s then
    { s with link := { s.link with
      state := .unselected, gapTimer := 0, mdo := none, inBreak := true, receiver := .waitHigh, lowFor := 0 } }
  else s

/-- MDI goes high after a break (R157). -/
def endOfBreakEvent (s : State) : State :=
  if portsOpen s then { s with link := { s.link with inBreak := false } } else s

/-- A whole command frame, correctly checked, arrives character after character (log 5). -/
def receiveFrame (code : Byte) (payload : List Byte) (s : State) : State :=
  (commandFrame code payload).foldl (fun st b => dataEvent b st) s

/-! ### Responses on MDO -/

/-- The character of a response frame at a position, as it begins on MDO. -/
def beginCharacter (r : Response) : Option MdoCharacter :=
  ((responseFrame r)[r.sent]?).map fun b => { byte := b, elapsed := 0 }

/-- The response begins on MDO (R165). -/
def beginResponse (r : Response) (s : State) : State :=
  let begun := { r with begun := true }
  { s with link := { s.link with state := .responding begun, mdo := beginCharacter begun } }

/-- The end of the response: MDO released, SELECTED (R165). -/
def endResponse (s : State) : State :=
  { s with link := { s.link with state := .selected, gapTimer := 0, mdo := none } }

/-- The end of one response character: the next begins, or the response ends (R165). -/
def nextCharacter (r : Response) (s : State) : State :=
  let advanced := { r with sent := r.sent + 1 }
  if advanced.sent < (responseFrame r).length then beginResponse advanced s else endResponse s

/-- The turnaround has passed: the response begins (R165). -/
def turnaroundEvent (s : State) : State :=
  if clockRuns s then
    match s.link.state with
    | .responding r => if r.begun then s else beginResponse r s
    | .unselected | .selected | .receiving _ | .discarding _ | .broadcast | .broadcastReceiving _ => s
  else s

/-- The last character of a response that has begun has been sent (R165). -/
def responseEndEvent (s : State) : State :=
  if clockRuns s then
    match s.link.state with
    | .responding r => if r.begun then endResponse s else s
    | .unselected | .selected | .receiving _ | .discarding _ | .broadcast | .broadcastReceiving _ => s
  else s

/-- One REFCLK cycle of a character that a select left to be finished on MDO (R166). -/
def finishCharacter (rate : BitVec 2) (m : Option MdoCharacter) : Option MdoCharacter :=
  match m with
  | none => none
  | some c => if c.elapsed + 1 < Config.characterTime rate then some { c with elapsed := c.elapsed + 1 } else none

/-- One REFCLK cycle of the gap timer inside a frame (R164). -/
def gapCycle (s : State) : State := { s with link := { s.link with gapTimer := s.link.gapTimer + 1 } }

/-- One REFCLK cycle of the gap timer, the turnaround and the character on MDO (R155, R164, R165, R168). -/
def linkTimers (s : State) : State :=
  let rate := s.power.rate
  let finished : State := { s with link := { s.link with mdo := finishCharacter rate s.link.mdo } }
  match s.link.state with
  | .unselected => finished
  | .selected => finished
  | .broadcast => finished
  | .receiving _ => gapCycle finished
  | .broadcastReceiving _ => gapCycle finished
  | .discarding _ => gapCycle finished
  | .responding r =>
    if r.begun then
      match finishCharacter rate s.link.mdo with
      | some c => { s with link := { s.link with mdo := some c } }
      | none => nextCharacter r s
    else if r.turnaround + 1 < Config.characterTime rate then
      { finished with link :=
        { finished.link with state := .responding { r with turnaround := r.turnaround + 1 } } }
    else beginResponse r s

/-! ### MDI, one REFCLK cycle at a time -/

/-- The level on MDI in the REFCLK cycle to come (R154, log 18). -/
def mdiLevel (s : State) : Bool := s.mdi.headD true

/-- What the receiver hands over goes to the link state machine (R156). -/
def handleLine (e : Option LineEvent) (s : State) : State :=
  match e with
  | none => s
  | some (.select value) => selectEvent value s
  | some (.data value) => dataEvent value s
  | some .framingError => framingErrorEvent s

/-- The receiver and the count of low cycles change. -/
def setReceiver (r : Receiver) (low : Nat) (s : State) : State :=
  { s with link := { s.link with receiver := r, lowFor := low } }

/-- The level on MDI as it stands between two cycles: the end of a break, the fall of a start bit, the rise that settles a
framing error (R156, R157). -/
def mdiEdge (s : State) : State :=
  let heard := if s.link.inBreak && mdiLevel s then endOfBreakEvent s else s
  if heard.link.inBreak then heard
  else
    let out := receiverEdge (mdiLevel s) heard.link.receiver
    handleLine out.2 (setReceiver out.1 heard.link.lowFor heard)

/-- One REFCLK cycle of MDI: a low of 2 character times is a break (R157); else the receiver samples the level, and at the end
of its stop bit a character is received (R156). -/
def mdiCycle (s : State) : State :=
  let passed : State := { s with mdi := s.mdi.drop 1 }
  let low := if mdiLevel s then 0 else s.link.lowFor + 1
  if s.link.inBreak then passed
  else if 2 * Config.characterTime s.power.rate ≤ low then breakEvent passed
  else
    let out := receiverCycle (Config.bitTime s.power.rate) (mdiLevel s) s.link.receiver
    handleLine out.2 (setReceiver out.1 low passed)

/-- Inside a frame, once 3 character times have passed and no start bit has begun by then, the frame times out (R164). -/
def gapCheck (s : State) : State :=
  if 3 * Config.characterTime s.power.rate ≤ s.link.gapTimer then frameTimeoutEvent s else s

/-- What a moment between two REFCLK cycles brings the link: the level on MDI first, so that a start bit that begins exactly 3
character times after the last character is in time (R164). -/
def linkMoment (s : State) : State := gapCheck (mdiEdge s)

/-- One REFCLK cycle of the link, and the moments at its begin and its end; a moment that two cycles share brings nothing a
second time. -/
def linkCycle (s : State) : State := linkMoment (mdiCycle (linkTimers (linkMoment s)))

/-! ### REFCLK -/

/-- REFCLK stops (R40, R168): the character being sent is cut short and MDO is released; a character being received is
abandoned, and the next begins after an idle high. That a character whose stop bit sampled 0 and which no rise has settled is
abandoned too, with no framing error at the later rise, is the model's choice (log 23). -/
def refclkStopEvent (s : State) : State :=
  let stopped : State :=
    { s with
      power := { s.power with refclk := false }
      time := { s.time with dropsTick := false }
      link := { s.link with mdo := none, receiver := .waitHigh } }
  if s.power.refclk then
    match s.link.state with
    | .responding r =>
      if r.begun then
        { stopped with link := { stopped.link with state := .responding { r with sent := r.sent + 1 } } }
      else stopped
    | .unselected | .selected | .receiving _ | .discarding _ | .broadcast | .broadcastReceiving _ => stopped
  else s

/-- REFCLK resumes (R168): a response goes on with its next character; one with no character left is over (log 12). -/
def refclkResumeEvent (s : State) : State :=
  let resumed : State := { s with power := { s.power with refclk := true } }
  if s.power.refclk then s
  else
    match s.link.state with
    | .responding r =>
      if r.begun then
        if r.sent < (responseFrame r).length then beginResponse r resumed else endResponse resumed
      else resumed
    | .unselected | .selected | .receiving _ | .discarding _ | .broadcast | .broadcastReceiving _ => resumed

/-- The bits of a link character in their order: start, data least significant first, mark, stop (R156). -/
def characterBits (b : Byte) (mark : Bool) : List Bool :=
  [false] ++ (List.range 8).map (fun i => b.getLsbD i) ++ [mark, true]

/-- The level the station puts on MDO: high (released) but for the 0 bits of the character it sends (R154, R165: every
response character has mark bit 0). -/
def mdoHigh (s : State) : Bool :=
  match s.link.mdo with
  | none => true
  | some c => ((characterBits c.byte false)[c.elapsed / Config.bitTime s.power.rate]?).getD true

/-- One REFCLK cycle: the grid and the link's timers count while REFCLK runs (R40, R168). -/
def refclkCycle (s : State) : State := if clockRuns s then gridCycle (linkCycle s) else s

/-! ### Power-on reset and initialisation -/

/-- A source asserts the reset (R138). -/
def assertSource (src : ResetSource) (p : Power) : Power :=
  match src with
  | .resetn => { p with resetnLow := true }
  | .detector => { p with supplyLow := true }

/-- A source releases the reset (R138). -/
def releaseSource (src : ResetSource) (p : Power) : Power :=
  match src with
  | .resetn => { p with resetnLow := false }
  | .detector => { p with supplyLow := false }

/-- Every block takes its power-on value (R138). REFCLK and the sources are not the reset's to change, and the queue and the
levels to come on MDI are not the part's. -/
def powerOnState (src : ResetSource) (s : State) : State :=
  { State.reset with
    power := assertSource src { s.power with
      phase := .inReset, station := State.reset.power.station, rate := State.reset.power.rate }
    mdi := s.mdi
    pending := s.pending }

/-- A reset is in force: a source asserts it (R138). -/
def resetInForce (s : State) : Bool := s.power.resetnLow || s.power.supplyLow

/-- A source asserts the power-on reset: the reset begins, but one that begins while another is in force changes nothing further.
A source releases it: the reset lasts while the other asserts it (R138). -/
def powerOnResetEvent (change : ResetChange) (s : State) : State :=
  match change with
  | .asserts src => if resetInForce s then { s with power := assertSource src s.power } else powerOnState src s
  | .releases src => { s with power := releaseSource src s.power }

/-- Initialisation begins when the last source has released the reset, and samples the straps (R138, R139, log 16). -/
def initialisationEvent (stn : BitVec 5) (rate : BitVec 2) (s : State) : State :=
  if s.power.phase = .inReset && !resetInForce s then
    { s with power := { s.power with phase := .initialising, station := stn, rate := rate } }
  else s

/-- The initialisation complete event (R140): REGEN sampled without a restart, the grid and the ports begin, a response
offered before is matched (and is stray), the head offered before is judged. -/
def initialisationCompleteEvent (regenHigh : Bool) (s : State) : State :=
  if s.power.phase = .initialising && s.power.refclk then
    judgeHead (matchResponse
      { s with
        power := { s.power with phase := .running }
        reg := { s.reg with regenHigh := regenHigh }
        time := { cycle := 0, tick := 0, slice := 0, period := 0 } })
  else s

end Sys2Proof.Machine
end

