-- ==== Sys2Proof/Machine/ControlEvents.lean ====
section
/-! DEFINITION. The meanings of the board lines' events: REGULATION_RESTART, REGEN_FALL, POWER_ON_RESET, INITIALISATION,
INITIALISATION_COMPLETE. -/

namespace Sys2Proof.Machine

/-- REGULATION_RESTART: a rise of REGEN (R137), whether or not REFCLK runs (R136). A rise comes only from the low level. -/
def execRegulationRestart (s : State) : Host.Outcome State Fault Refusal :=
  .next (if portsOpen s && !s.reg.regenHigh then restartEvent s else s)

/-- REGEN_FALL (R136). A fall comes only from the high level. -/
def execRegenFall (s : State) : Host.Outcome State Fault Refusal :=
  .next (if portsOpen s && s.reg.regenHigh then regenFallEvent s else s)

/-- POWER_ON_RESET: a source asserts the reset, or releases it (R138). -/
def execPowerOnReset (src : ResetChange) (s : State) : Host.Outcome State Fault Refusal :=
  .next (powerOnResetEvent src s)

/-- INITIALISATION: the reset has ended, initialisation begins (R139). -/
def execInitialisation (stn : BitVec 5) (rate : BitVec 2) (s : State) : Host.Outcome State Fault Refusal :=
  .next (initialisationEvent stn rate s)

/-- INITIALISATION_COMPLETE (R140). -/
def execInitialisationComplete (regenHigh : Bool) (s : State) : Host.Outcome State Fault Refusal :=
  .next (initialisationCompleteEvent regenHigh s)

end Sys2Proof.Machine
end

