-- ==== Sys2Proof/Machine/GridEvents.lean ====
section
/-! DEFINITION. The meanings of the events of time: TICK, SLICE_BOUNDARY, PERIOD_BOUNDARY, EXPIRY, PUBLICATION,
REFCLK_STOP, REFCLK_RESUME. A boundary command is the next slice boundary, whole; a row that names a part of a boundary is
that boundary where the part comes about at it, and nothing where it does not (log 1, log 4). The tick of such a command can
be one that fell together with a restart (R47, log 6). -/

namespace Sys2Proof.Machine

/-- TICK (R35, R40, R47). -/
def execTick (s : State) : Host.Outcome State Fault Refusal :=
  .next (atTick tickEvent s)

/-- SLICE_BOUNDARY (R36, R40, R47). -/
def execSliceBoundary (s : State) : Host.Outcome State Fault Refusal :=
  .next (atTick sliceBoundaryEvent s)

/-- PERIOD_BOUNDARY: a slice boundary at which the slice index returns to 0 (R37). -/
def execPeriodBoundary (s : State) : Host.Outcome State Fault Refusal :=
  .next (atTick (fun t => if atPeriodEnd t then sliceBoundaryEvent t else t) s)

/-- EXPIRY: a slice boundary at which a HELD record expires (R86). -/
def execExpiry (s : State) : Host.Outcome State Fault Refusal :=
  .next (atTick (fun t => if expiryDue t then sliceBoundaryEvent t else t) s)

/-- PUBLICATION: a period boundary that finds a commit pending (R126, R127). The other event that publishes, the
regulation restart, is a row of its own. -/
def execPublication (s : State) : Host.Outcome State Fault Refusal :=
  .next (atTick (fun t => if atPeriodEnd t && t.store.commitPending then sliceBoundaryEvent t else t) s)

/-- REFCLK_STOP (R40, R168). -/
def execRefclkStop (s : State) : Host.Outcome State Fault Refusal := .next (refclkStopEvent s)

/-- REFCLK_RESUME (R40, R168). -/
def execRefclkResume (s : State) : Host.Outcome State Fault Refusal := .next (refclkResumeEvent s)

end Sys2Proof.Machine
end

