-- ==== Sys2Proof/Machine/LinkEvents.lean ====
section
/-! DEFINITION. The meanings of the events on MDI and MDO: SELECT_CHARACTER, DATA_CHARACTER, FRAMING_ERROR,
FRAME_TIMEOUT, BREAK, RESPONSE_TURNAROUND, RESPONSE_END, END_OF_BREAK. -/

namespace Sys2Proof.Machine

/-- SELECT_CHARACTER (R158). -/
def execSelectCharacter (value : Byte) (s : State) : Host.Outcome State Fault Refusal :=
  .next (selectEvent value s)

/-- DATA_CHARACTER (R160 to R163, R166). -/
def execDataCharacter (value : Byte) (s : State) : Host.Outcome State Fault Refusal :=
  .next (dataEvent value s)

/-- FRAMING_ERROR (R164). -/
def execFramingError (s : State) : Host.Outcome State Fault Refusal := .next (framingErrorEvent s)

/-- FRAME_TIMEOUT (R164). -/
def execFrameTimeout (s : State) : Host.Outcome State Fault Refusal := .next (frameTimeoutEvent s)

/-- BREAK (R157). -/
def execLinkBreak (s : State) : Host.Outcome State Fault Refusal := .next (breakEvent s)

/-- RESPONSE_TURNAROUND (R165). -/
def execResponseTurnaround (s : State) : Host.Outcome State Fault Refusal := .next (turnaroundEvent s)

/-- RESPONSE_END (R165). -/
def execResponseEnd (s : State) : Host.Outcome State Fault Refusal := .next (responseEndEvent s)

/-- END_OF_BREAK (R157). -/
def execEndOfBreak (s : State) : Host.Outcome State Fault Refusal := .next (endOfBreakEvent s)

end Sys2Proof.Machine
end

