-- ==== Sys2Proof/Machine/Management.lean ====
section
/-! DEFINITION. The meanings of the management commands. A row is its whole command frame, correctly checked, arriving at
the station (log 5): a SELECTED station executes it and begins its response, a station selected by broadcast executes it if
it is write-type, an UNSELECTED one ignores it. The Command Executor's effect of each is in Executor.lean. -/

namespace Sys2Proof.Machine

/-- UNKNOWN_COMMAND: a checked frame with the given code and payload (R170, R171). -/
def execUnknownCommand (code : Byte) (payload : List Byte) (s : State) : Host.Outcome State Fault Refusal :=
  .next (receiveFrame code payload s)

/-- IDENTIFY (R172). -/
def execIdentify (s : State) : Host.Outcome State Fault Refusal :=
  .next (receiveFrame 0x01 [] s)

/-- STATUS with clear option keep (R173). -/
def execStatusKeep (s : State) : Host.Outcome State Fault Refusal :=
  .next (receiveFrame 0x02 (fieldBytes 1 0) s)

/-- STATUS with clear option clear (R174). -/
def execStatusClear (s : State) : Host.Outcome State Fault Refusal :=
  .next (receiveFrame 0x02 (fieldBytes 1 1) s)

/-- READ_ACCOUNT (R175). -/
def execReadAccount (index copy : Byte) (s : State) : Host.Outcome State Fault Refusal :=
  .next (receiveFrame 0x10 [index, copy] s)

/-- WRITE_ACCOUNT, in the layout of R190 (R120, R176). -/
def execWriteAccount (index mode : Byte) (quantum : BitVec 16) (extra : Byte) (ceiling : BitVec 16)
    (weight cap maxWait priority : Byte) (s : State) : Host.Outcome State Fault Refusal :=
  .next (receiveFrame 0x11
    ([index, mode] ++ fieldBytes 2 quantum.toNat ++ [extra] ++ fieldBytes 2 ceiling.toNat
      ++ [weight, cap, maxWait, priority]) s)

/-- READ_MAP (R177). -/
def execReadMap (index copy : Byte) (s : State) : Host.Outcome State Fault Refusal :=
  .next (receiveFrame 0x12 [index, copy] s)

/-- WRITE_MAP, in the layout of R191 (R120, R176). -/
def execWriteMap (index valid idValue idMask : Byte) (basePage limitPage : BitVec 24)
    (filter account : Byte) (s : State) : Host.Outcome State Fault Refusal :=
  .next (receiveFrame 0x13
    ([index, valid, idValue, idMask] ++ fieldBytes 3 basePage.toNat ++ fieldBytes 3 limitPage.toNat
      ++ [filter, account]) s)

/-- READ_GLOBALS (R177). -/
def execReadGlobals (s : State) : Host.Outcome State Fault Refusal :=
  .next (receiveFrame 0x14 [] s)

/-- WRITE_GLOBALS, in the layout of R192 (R120, R176). -/
def execWriteGlobals (prescale sliceLength : BitVec 16) (unmapped : Byte) (s : State) : Host.Outcome State Fault Refusal :=
  .next (receiveFrame 0x15
    (fieldBytes 2 prescale.toNat ++ fieldBytes 2 sliceLength.toNat ++ [unmapped]) s)

/-- COPY_LIVE_TO_STAGED (R121). -/
def execCopyLiveToStaged (s : State) : Host.Outcome State Fault Refusal :=
  .next (receiveFrame 0x16 [] s)

/-- COMMIT (R123). -/
def execCommit (s : State) : Host.Outcome State Fault Refusal :=
  .next (receiveFrame 0x18 [] s)

/-- CANCEL_COMMIT (R125). -/
def execCancelCommit (s : State) : Host.Outcome State Fault Refusal :=
  .next (receiveFrame 0x19 [] s)

/-- READ_COUNTERS with clear flag keep (R18). -/
def execReadCountersKeep (index : Byte) (s : State) : Host.Outcome State Fault Refusal :=
  .next (receiveFrame 0x20 ([index] ++ fieldBytes 1 0) s)

/-- READ_COUNTERS with clear flag clear (R18). -/
def execReadCountersClear (index : Byte) (s : State) : Host.Outcome State Fault Refusal :=
  .next (receiveFrame 0x20 ([index] ++ fieldBytes 1 1) s)

/-- READ_HOLD (R99, R180). -/
def execReadHold (slot : Byte) (s : State) : Host.Outcome State Fault Refusal :=
  .next (receiveFrame 0x21 [slot] s)

/-- FLUSH with action RELEASE (R89). -/
def execFlushRelease (selector : Byte) (s : State) : Host.Outcome State Fault Refusal :=
  .next (receiveFrame 0x28 ([selector] ++ fieldBytes 1 0) s)

/-- FLUSH with action REFUSE (R90). -/
def execFlushRefuse (selector : Byte) (s : State) : Host.Outcome State Fault Refusal :=
  .next (receiveFrame 0x28 ([selector] ++ fieldBytes 1 1) s)

/-- READ_CAPTURE (R146). -/
def execReadCapture (s : State) : Host.Outcome State Fault Refusal :=
  .next (receiveFrame 0x30 [] s)

/-- CLEAR_CAPTURE (R148). -/
def execClearCapture (s : State) : Host.Outcome State Fault Refusal :=
  .next (receiveFrame 0x31 [] s)

/-- SET_MODE (R134). -/
def execSetMode (mode : Byte) (s : State) : Host.Outcome State Fault Refusal :=
  .next (receiveFrame 0x38 [mode] s)

/-- ACK_ALERT (R151). -/
def execAckAlert (mask : Byte) (s : State) : Host.Outcome State Fault Refusal :=
  .next (receiveFrame 0x39 [mask] s)

/-- SET_ALERT_ENABLE (R152). -/
def execSetAlertEnable (mask : Byte) (s : State) : Host.Outcome State Fault Refusal :=
  .next (receiveFrame 0x3A [mask] s)

end Sys2Proof.Machine
end

