-- ==== Sys2Proof/Machine/Traffic.lean ====
section
/-! DEFINITION. The meanings of the traffic-path events: OFFER, TAKE_HELD, TAKE_REFUSING, M_PORT_READY_EVENT,
MEMORY_RESPONSE, H_PORT_READY_EVENT. -/

namespace Sys2Proof.Machine

/-- The host side offers a head (R51). One request is offered at a time; before the initialisation complete event the head
is offered and not yet judged. -/
def offerHead (r : Request) (s : State) : State :=
  if s.hostPort.head.isSome then s
  else
    let offered : State :=
      { s with hostPort := { s.hostPort with
        head := some { req := r, tagWaitCounted := false, slotWaitCounted := false } } }
    if portsOpen s then judgeHead offered else offered

/-- The taking of a head whose disposition is HOLD, where a slot is FREE (R67). -/
def takeHeldEvent (s : State) : State :=
  if portsOpen s then
    match s.hostPort.head with
    | none => s
    | some h =>
      match disposition s h.req, freeSlot s with
      | .hold a b, some slot => takeHeld h.req a b slot s
      | .hold _ _, none => s
      | .issue _, _ => s
      | .refuse _ _, _ => s
      | .waitTag, _ => s
  else s

/-- The taking of a head whose disposition is REFUSE, where a slot is FREE and no tag conflict lasts (R68, R57). -/
def takeRefusingEvent (s : State) : State :=
  if portsOpen s then
    match s.hostPort.head with
    | none => s
    | some h =>
      if tagConflict s h.req then s
      else
        match disposition s h.req, freeSlot s with
        | .refuse c a, some slot => takeRefusing h.req c a slot s
        | .refuse _ _, none => s
        | .issue _, _ => s
        | .hold _ _, _ => s
        | .waitTag, _ => s
  else s

/-- OFFER (R51, R53, R57, R67 to R69). -/
def execOffer (r : Request) (s : State) : Host.Outcome State Fault Refusal := .next (offerHead r s)

/-- TAKE_HELD (R67). -/
def execTakeHeld (s : State) : Host.Outcome State Fault Refusal := .next (takeHeldEvent s)

/-- TAKE_REFUSING (R68). -/
def execTakeRefusing (s : State) : Host.Outcome State Fault Refusal := .next (takeRefusingEvent s)

/-- M_PORT_READY_EVENT (R100). -/
def execMPortReadyEvent (s : State) : Host.Outcome State Fault Refusal := .next (mPortReady s)

/-- MEMORY_RESPONSE (R107, R108). -/
def execMemoryResponse (r : MemoryResponse) (s : State) : Host.Outcome State Fault Refusal :=
  .next (offerResponse r s)

/-- H_PORT_READY_EVENT (R110). -/
def execHPortReadyEvent (s : State) : Host.Outcome State Fault Refusal := .next (hPortReady s)

end Sys2Proof.Machine
end

