-- ==== Sys2Proof/Machine/Dispatch.lean ====
section
/-! DEFINITION. The meaning of every command: one arm per row of spec/opcode_table.json, in the table's order. -/

namespace Sys2Proof.Machine

def exec (i : Instr) (s : State) : Host.Outcome State Fault Refusal :=
  match i with
  | .offer r => Sys2Proof.Machine.execOffer r s
  | .takeHeld => Sys2Proof.Machine.execTakeHeld s
  | .takeRefusing => Sys2Proof.Machine.execTakeRefusing s
  | .mPortReadyEvent => Sys2Proof.Machine.execMPortReadyEvent s
  | .memoryResponse r => Sys2Proof.Machine.execMemoryResponse r s
  | .hPortReadyEvent => Sys2Proof.Machine.execHPortReadyEvent s
  | .tick => Sys2Proof.Machine.execTick s
  | .sliceBoundary => Sys2Proof.Machine.execSliceBoundary s
  | .periodBoundary => Sys2Proof.Machine.execPeriodBoundary s
  | .expiry => Sys2Proof.Machine.execExpiry s
  | .publication => Sys2Proof.Machine.execPublication s
  | .regulationRestart => Sys2Proof.Machine.execRegulationRestart s
  | .regenFall => Sys2Proof.Machine.execRegenFall s
  | .powerOnReset src => Sys2Proof.Machine.execPowerOnReset src s
  | .initialisation stn rate => Sys2Proof.Machine.execInitialisation stn rate s
  | .initialisationComplete regenHigh => Sys2Proof.Machine.execInitialisationComplete regenHigh s
  | .selectCharacter value => Sys2Proof.Machine.execSelectCharacter value s
  | .dataCharacter value => Sys2Proof.Machine.execDataCharacter value s
  | .framingError => Sys2Proof.Machine.execFramingError s
  | .frameTimeout => Sys2Proof.Machine.execFrameTimeout s
  | .linkBreak => Sys2Proof.Machine.execLinkBreak s
  | .responseTurnaround => Sys2Proof.Machine.execResponseTurnaround s
  | .responseEnd => Sys2Proof.Machine.execResponseEnd s
  | .unknownCommand code payload => Sys2Proof.Machine.execUnknownCommand code payload s
  | .identify => Sys2Proof.Machine.execIdentify s
  | .statusKeep => Sys2Proof.Machine.execStatusKeep s
  | .statusClear => Sys2Proof.Machine.execStatusClear s
  | .readAccount index copy => Sys2Proof.Machine.execReadAccount index copy s
  | .writeAccount index mode quantum extra ceiling weight cap maxWait priority => Sys2Proof.Machine.execWriteAccount index mode quantum extra ceiling weight cap maxWait priority s
  | .readMap index copy => Sys2Proof.Machine.execReadMap index copy s
  | .writeMap index valid idValue idMask basePage limitPage filter account => Sys2Proof.Machine.execWriteMap index valid idValue idMask basePage limitPage filter account s
  | .readGlobals => Sys2Proof.Machine.execReadGlobals s
  | .writeGlobals prescale sliceLength unmapped => Sys2Proof.Machine.execWriteGlobals prescale sliceLength unmapped s
  | .copyLiveToStaged => Sys2Proof.Machine.execCopyLiveToStaged s
  | .commit => Sys2Proof.Machine.execCommit s
  | .cancelCommit => Sys2Proof.Machine.execCancelCommit s
  | .readCountersKeep index => Sys2Proof.Machine.execReadCountersKeep index s
  | .readCountersClear index => Sys2Proof.Machine.execReadCountersClear index s
  | .readHold slot => Sys2Proof.Machine.execReadHold slot s
  | .flushRelease selector => Sys2Proof.Machine.execFlushRelease selector s
  | .flushRefuse selector => Sys2Proof.Machine.execFlushRefuse selector s
  | .readCapture => Sys2Proof.Machine.execReadCapture s
  | .clearCapture => Sys2Proof.Machine.execClearCapture s
  | .setMode mode => Sys2Proof.Machine.execSetMode mode s
  | .ackAlert mask => Sys2Proof.Machine.execAckAlert mask s
  | .setAlertEnable mask => Sys2Proof.Machine.execSetAlertEnable mask s
  | .refclkStop => Sys2Proof.Machine.execRefclkStop s
  | .refclkResume => Sys2Proof.Machine.execRefclkResume s
  | .endOfBreak => Sys2Proof.Machine.execEndOfBreak s

end Sys2Proof.Machine
end

