-- ==== Sys2Proof/Safety.lean ====
section
/-! DEFINITION. What counts as a sound state of the VBR-160, in the terms the claims use: the laws the data sheet says the
blocks keep at every event. -/

namespace Sys2Proof.Safety

open Sys2Proof.Machine

/-- Every account's balance lies between 0 and its live ceiling (R5). -/
abbrev BalancesBounded (s : State) : Prop :=
  ∀ a : AccountIndex, (accountOf s a).balance ≤ (liveParams s a).ceiling

/-- Every held count equals the number of HELD records of its account (R14). -/
abbrev HeldCountsAgree (s : State) : Prop :=
  ∀ a : AccountIndex,
    (accountOf s a).held = ((heldRecords s.pool).filter fun h => h.account == a).length

/-- Every outstanding count equals the number of entries of its account (R13, R106). -/
abbrev OutstandingCountsAgree (s : State) : Prop :=
  ∀ a : AccountIndex,
    (accountOf s a).outstanding = (s.outstanding.filter fun e => e.account == a).length

/-- The Outstanding Table holds at most 16 entries (R105). -/
abbrev OutstandingBounded (s : State) : Prop := s.outstanding.length ≤ Config.outstandingMax

/-- A slot holds at most one record (R74). -/
abbrev SlotsDistinct (s : State) : Prop := (s.pool.map fun e => e.slot).Nodup

/-- The requester ID and tag of every record the regulator holds. -/
def heldPairs (s : State) : List (RequesterId × Tag) :=
  (s.pool.map fun e => recordPair e.record) ++ s.outstanding.map fun e => (e.id, e.tag)

/-- No two records of the Hold Pool and the Outstanding Table carry the same requester ID and tag (R56). -/
abbrev PairsDistinct (s : State) : Prop := (heldPairs s).Nodup

/-- Before the initialisation complete event the pool and the Outstanding Table are empty (R98, R118). -/
abbrev EmptyBeforeRunning (s : State) : Prop :=
  s.power.phase ≠ .running → s.pool = [] ∧ s.outstanding = []

/-- A memory response that waits on the M-port is matched (R107). -/
abbrev WaitingResponseMatched (s : State) : Prop :=
  s.power.phase = .running → ∀ r : MemoryResponse, s.memPort.resp = some r →
    matchesOutstanding s r.id r.tag = true

/-- Every HELD record of the list shows the result of the admission test against the HELD records ahead of it, and none
of them is one a credit refusal would take (R79, R83). -/
def blockersCurrent (s : State) (older : List HeldRecord) : List PoolEntry → Bool
  | [] => true
  | e :: rest =>
    match e.record with
    | .refusing _ => blockersCurrent s older rest
    | .held h =>
      h.blocker == admissionTest s h.account h.exempt h.req older && !creditRefused s h h.blocker
        && blockersCurrent s (older ++ [h]) rest

/-- The pool is settled (R79, R83). -/
abbrev PoolSettled (s : State) : Prop := blockersCurrent s [] s.pool = true

/-- The head has been judged: a tag wait or a slot wait it is in has been counted, and it is not left on the channel while
it could be taken into a slot (R57, R67, R68, R69). -/
def headJudged (s : State) : Bool :=
  match s.hostPort.head with
  | none => true
  | some h =>
    if tagConflict s h.req then h.tagWaitCounted
    else
      match disposition s h.req with
      | .issue _ => true
      | .waitTag => true
      | .hold _ _ => (freeSlot s).isNone && h.slotWaitCounted
      | .refuse _ _ => (freeSlot s).isNone && h.slotWaitCounted

/-- No head waits that the first event that could take it has not taken (R67, R68). -/
abbrev HeadJudged (s : State) : Prop := s.power.phase = .running → headJudged s = true

/-- The live configuration passes validation, and a pending one too (R123, R124). -/
abbrev StoreSound (s : State) : Prop :=
  firstFault s.store.live = none ∧ (s.store.commitPending = true → firstFault s.store.staged = none)

/-- The parameters of an account lie in their ranges (section 1.1). -/
abbrev ParamsInRange (p : AccountParams) : Prop :=
  p.quantum ≤ 4095 ∧ p.extra ≤ 31 ∧ p.ceiling ≤ 65535 ∧ (p.weight = 1 ∨ p.weight = 2) ∧ p.cap ≤ 16 ∧
    p.maxWait ≤ 255 ∧ p.priority ≤ 3

/-- A copy of the configuration lies in its ranges (R38, section 1.1, section 7.1). -/
abbrev ConfigurationInRange (c : Configuration) : Prop :=
  (∀ a : AccountIndex, ParamsInRange c.accounts[a]) ∧ c.prescale ≤ 65535 ∧ 1 ≤ c.sliceLength ∧
    c.sliceLength ≤ 4096

/-- Both copies lie in their ranges. -/
abbrev StoreInRange (s : State) : Prop :=
  ConfigurationInRange s.store.staged ∧ ConfigurationInRange s.store.live

/-- The four counts of the Time Base lie in their ranges (R34). -/
abbrev GridInRange (s : State) : Prop :=
  s.time.cycle ≤ s.store.live.prescale ∧ s.time.tick < s.store.live.sliceLength ∧ s.time.slice < 32 ∧
    s.time.period < 65536

/-- The Capture Ring holds at most 8 records; lost count and sequence count lie in their ranges (R143). -/
abbrev RingInRange (s : State) : Prop :=
  s.capture.records.length ≤ Config.captureMax ∧ s.capture.lost ≤ 255 ∧ s.capture.seq < 65536

/-- The four global counters lie in their ranges (R72, R116, R167). -/
abbrev GlobalCountersInRange (s : State) : Prop :=
  s.hostPort.tagWaits ≤ 65535 ∧ s.hostPort.slotWaits ≤ 65535 ∧ s.memPort.strays ≤ 65535 ∧ s.link.errors ≤ 255

/-- The nine counters of every account lie in their ranges (section 1.1, R15, R179). -/
abbrev AccountCountersInRange (s : State) : Prop :=
  ∀ a : AccountIndex, let k := (accountOf s a).counters
    k.issuedRequests ≤ Config.counterMax ∧ k.issuedBeats ≤ Config.counterMax ∧ k.holds ≤ Config.counterMax ∧
      k.creditRefusals ≤ Config.counterMax ∧ k.expiries ≤ Config.counterMax ∧
      k.flushRefusals ≤ Config.counterMax ∧ k.overdrawCredits ≤ Config.counterMax ∧
      k.peakHeld ≤ 24 ∧ k.peakWait ≤ Config.byteMax

/-- A frame being received keeps the sum of its bytes, and its payload is no longer than its length byte, at most 48
(R161). -/
def frameSound (f : Frame) : Bool :=
  match f.length with
  | none => f.payload.isEmpty && f.sum == f.code
  | some n =>
    decide (n ≤ Config.payloadMax) && decide (f.payload.length ≤ n)
      && f.sum == f.code + BitVec.ofNat 8 n + f.payload.sum

/-- The frame being received keeps the sum of its bytes, and no response is longer than a frame can carry (R161). -/
def linkSound (s : State) : Bool :=
  match s.link.state with
  | .receiving f => frameSound f
  | .broadcastReceiving f => frameSound f
  | .responding r => decide (r.payload.length ≤ Config.payloadMax)
  | .unselected => true
  | .selected => true
  | .discarding _ => true
  | .broadcast => true

/-- The records of the ring carry consecutive sequence numbers that end just before the sequence count (R145, R148). -/
abbrev RingConsecutive (s : State) : Prop :=
  ∀ i : Nat, ∀ r : CaptureRecord, s.capture.records[i]? = some r →
    (r.seq + (s.capture.records.length - i)) % Config.wrap16 = s.capture.seq

/-- While a source asserts the power-on reset, neither initialisation nor operation has begun (R138). -/
abbrev ResetSourcesAgree (s : State) : Prop := resetInForce s = true → s.power.phase = .inReset

/-- The rows that are a tick, or the boundary that a tick makes (R35, R36). -/
def tickRows : List Instr := [.tick, .sliceBoundary, .periodBoundary, .expiry, .publication]

/-- A command that is a tick falls together with a restart taken now: REFCLK runs, the cycle in progress completes the tick, and
where the command names the boundary, the tick completes the slice (R35, R36, R47, log 6). -/
abbrev FallsTogether (s : State) (i : Instr) : Prop :=
  s.power.refclk = true ∧ s.store.live.prescale ≤ s.time.cycle ∧
    (i = .tick ∨ (i ∈ tickRows ∧ s.store.live.sliceLength ≤ s.time.tick + 1))

/-- Only a tick that waits next is discarded after a restart, and only while REFCLK counts (R47, R40). -/
def discardSound (s : State) : Bool :=
  !s.time.dropsTick || (clockRuns s && tickRows.any fun i => s.pending.head? == some i)

/-- The receiver on MDI: none of a character before the initialisation complete event (R159); a character is not past its stop
bit and its data and mark bits have been sampled one by one (R156); a low of 2 character times is no longer waited for
(R157). -/
def receiverSound (s : State) : Bool :=
  let bit := Config.bitTime s.power.rate
  if s.power.phase = .running then
    decide (s.link.lowFor < 2 * Config.characterTime s.power.rate) &&
    match s.link.receiver with
    | .character n bits => decide (n < 11 * bit) && bits.length == min 9 ((n - bit / 2 - 1) / bit)
    | .waitHigh => true
    | .ready => true
    | .unsettled => true
  else s.link.receiver == .waitHigh && s.link.lowFor == 0

/-! ### Conditions on a state that a command finds -/

/-- The ports take events (R140). -/
abbrev Running (s : State) : Prop := s.power.phase = .running

/-- REFCLK counts at the Time Base and at the Link Interface (R40, R168). -/
abbrev ClockRunning (s : State) : Prop := s.power.phase = .running ∧ s.power.refclk = true

/-- A tick, or the boundary it makes, is counted: REFCLK runs, and it does not fall together with a restart just taken (R47). -/
abbrev TicksCount (s : State) : Prop := ClockRunning s ∧ s.time.dropsTick = false

/-- MDI stays high from now on and no character is being received (R156, log 18). -/
abbrev LineQuiet (s : State) : Prop := s.mdi = [] ∧ startBitBegun s.link.receiver = false

/-- MDI has been high for a cycle at least, and stays high (R156, log 18). -/
abbrev LineIdle (s : State) : Prop :=
  s.mdi = [] ∧ s.link.receiver = .ready ∧ s.link.lowFor = 0 ∧ s.link.inBreak = false

/-- The levels of a character on MDI: each of its 11 bits lasts one bit time (R155, R156). -/
def characterLevels (bit : Nat) (value : Byte) (mark : Bool) : List Bool :=
  (characterBits value mark).flatMap fun level => List.replicate bit level

/-- `n` steps lead from one state to the other. -/
def stepsTo : Nat → State → State → Prop
  | 0, s, t => s = t
  | n + 1, s, t => ∃ u, step s = .next u ∧ stepsTo n u t

/-- The Link Interface takes characters (R157, R159, R168). -/
abbrev Listening (s : State) : Prop := ClockRunning s ∧ s.link.inBreak = false

/-- The station waits for a unicast frame (R160). -/
abbrev SelectedListening (s : State) : Prop := Listening s ∧ s.link.state = .selected

/-- The station waits for a broadcast frame (R160). -/
abbrev BroadcastListening (s : State) : Prop := Listening s ∧ s.link.state = .broadcast

/-- The state with a response fixed and its turnaround beginning (R162, R165). -/
def answering (st : Status) (payload : List Byte) (s : State) : State :=
  { s with link := { s.link with
    state := .responding { status := st, payload := payload, sent := 0, begun := false, turnaround := 0 }
    gapTimer := 0 } }

/-- A link error counted: the counter saturates at 255 and LINK_ERROR, bit 5, is set (R167, R186). -/
def withLinkError (s : State) : State :=
  { s with
    link := { s.link with errors := min (s.link.errors + 1) 255 }
    alert := { s.alert with causes := s.alert.causes ||| 0x20 } }

/-- The state with another link state after a character has ended, where the gap timer starts (R164). -/
def withLinkState (st : LinkState) (s : State) : State :=
  { s with link := { s.link with state := st, gapTimer := 0 } }

/-- Slot `i` is FREE and every slot below it is occupied (R74, R78). -/
abbrev LowestFree (s : State) (i : SlotIndex) : Prop :=
  (∀ e ∈ s.pool, e.slot ≠ i) ∧ ∀ j : SlotIndex, j < i → ∃ e ∈ s.pool, e.slot = j

/-- No slot is FREE (R69). -/
abbrev PoolFull (s : State) : Prop := ∀ j : SlotIndex, ∃ e ∈ s.pool, e.slot = j

/-- A record of the pool or an outstanding entry carries the pair (R56). -/
abbrev InTagConflict (s : State) (r : Request) : Prop := (r.id, r.tag) ∈ heldPairs s

/-- The slots of the pool in pool order (R75). -/
def poolSlots (s : State) : List SlotIndex := s.pool.map fun e => e.slot

/-- The fields of a HELD record that a re-evaluation keeps: all but the blocker (R76, R80). -/
def heldFields (h : HeldRecord) : Request × AccountIndex × Nat × Bool := (h.req, h.account, h.wait, h.exempt)

/-- The response a character of which has begun on MDO (R165, R168). -/
abbrev ResponseBegun (s : State) : Prop := ∃ r : Response, s.link.state = .responding r ∧ r.begun = true

/-- What an event adds to the Capture Ring at one place of the pool: the capture record of a HELD record that has become
REFUSING, from its held fields (R82, R144). -/
def captureAt (period slice : Nat) (ring : CaptureRing) (change : PoolEntry × PoolEntry) : CaptureRing :=
  match change.1.record, change.2.record with
  | .held h, .refusing r => ring.add
      { seq := ring.seq, cause := r.cause, account := some h.account, id := h.req.id, tag := h.req.tag, dir := h.req.dir,
        addr := h.req.addr, len := h.req.len, period := period, slice := slice }
  | .held _, .held _ => ring
  | .refusing _, _ => ring

/-- A two-byte field, least significant byte first (R185). -/
def twoBytes (n : Nat) : List Byte := [BitVec.ofNat 8 n, BitVec.ofNat 8 (n / 256)]

/-- A three-byte field, least significant byte first (R185). -/
def threeBytes (n : Nat) : List Byte := [BitVec.ofNat 8 n, BitVec.ofNat 8 (n / 256), BitVec.ofNat 8 (n / 65536)]

/-- A four-byte field, least significant byte first (R185). -/
def fourBytes (n : Nat) : List Byte :=
  [BitVec.ofNat 8 n, BitVec.ofNat 8 (n / 256), BitVec.ofNat 8 (n / 65536), BitVec.ofNat 8 (n / 16777216)]

/-- The byte of an account mode (R186). -/
def modeByte : AccountMode → Byte
  | .meter => 0x00
  | .hold => 0x01
  | .refuse => 0x02

/-- The byte of a direction filter (R186). -/
def filterByte : DirectionFilter → Byte
  | .both => 0x00
  | .read => 0x01
  | .write => 0x02

/-- The byte of an unmapped action (R186). -/
def unmappedByte : UnmappedAction → Byte
  | .account a => BitVec.ofNat 8 a.val
  | .refuse => 0xFF

/-- The eight parameters of an account at their offsets (R190, R186). -/
def accountBytes (p : AccountParams) : List Byte :=
  [modeByte p.mode] ++ twoBytes p.quantum ++ [BitVec.ofNat 8 p.extra] ++ twoBytes p.ceiling
    ++ [BitVec.ofNat 8 p.weight, BitVec.ofNat 8 p.cap, BitVec.ofNat 8 p.maxWait, BitVec.ofNat 8 p.priority]

/-- The seven fields of a map entry at their offsets (R191, R186). -/
def mapBytes (e : MapEntry) : List Byte :=
  [if e.valid then 0x01 else 0x00, BitVec.ofNat 8 e.idValue.toNat, BitVec.ofNat 8 e.idMask.toNat]
    ++ threeBytes e.basePage.toNat ++ threeBytes e.limitPage.toNat
    ++ [filterByte e.filter, BitVec.ofNat 8 e.account.val]

/-- A globals block (R192, R186). -/
def globalsBytes (c : Configuration) : List Byte :=
  twoBytes c.prescale ++ twoBytes c.sliceLength ++ [unmappedByte c.unmapped]

/-- The byte of a request's direction (R186). -/
def directionByte : Direction → Byte
  | .read => 0x00
  | .write => 0x01

/-- The byte of a refusal cause (R186). -/
def causeByte : Cause → Byte
  | .credit => 0x01
  | .expired => 0x02
  | .flushed => 0x03
  | .unmapped => 0x04
  | .malformed => 0x05

/-- The byte of a blocker (R186). -/
def blockerByte : Blocker → Byte
  | .none => 0x00
  | .idOrder => 0x01
  | .hazard => 0x02
  | .accountOrder => 0x03
  | .cap => 0x04
  | .credit => 0x05

/-- The byte of an account in a record, FFh where it is absent (R186). -/
def accountByte : Option AccountIndex → Byte
  | some a => BitVec.ofNat 8 a.val
  | none => 0xFF

/-- The byte of a response status (R186). -/
def statusByte : Status → Byte
  | .done => 0x00
  | .accepted => 0x01
  | .checkFail => 0x02
  | .unknownCommand => 0x03
  | .badPayload => 0x04
  | .range => 0x05
  | .pending => 0x06
  | .invalid => 0x07

/-- A FLUSH selector names the account of a HELD record (R88, R186). -/
def flushNames (selector : Byte) (h : HeldRecord) : Bool := selector == 0xFF || selector.toNat == h.account.val

/-- The rows of the read-type management commands (R171). -/
def isReadRow : Instr → Bool
  | .identify | .statusKeep | .statusClear | .readAccount _ _ | .readMap _ _ | .readGlobals | .readCountersKeep _
  | .readCountersClear _ | .readHold _ | .readCapture => true
  | .offer _ | .memoryResponse _ | .powerOnReset _ | .initialisation _ _ | .initialisationComplete _
  | .refclkStop | .refclkResume | .takeHeld | .takeRefusing | .mPortReadyEvent | .hPortReadyEvent | .tick
  | .sliceBoundary | .periodBoundary | .expiry | .publication | .regulationRestart | .regenFall
  | .selectCharacter _ | .dataCharacter _ | .framingError | .frameTimeout | .linkBreak | .responseTurnaround
  | .responseEnd | .unknownCommand _ _ | .writeAccount _ _ _ _ _ _ _ _ _ | .writeMap _ _ _ _ _ _ _ _
  | .writeGlobals _ _ _ | .copyLiveToStaged | .commit | .cancelCommit | .flushRelease _ | .flushRefuse _
  | .clearCapture | .setMode _ | .ackAlert _ | .setAlertEnable _ | .endOfBreak => false

/-- The rows of the write-type management commands (R171). -/
def isWriteRow : Instr → Bool
  | .writeAccount _ _ _ _ _ _ _ _ _ | .writeMap _ _ _ _ _ _ _ _ | .writeGlobals _ _ _ | .copyLiveToStaged
  | .commit | .cancelCommit | .flushRelease _ | .flushRefuse _ | .clearCapture | .setMode _ | .ackAlert _
  | .setAlertEnable _ => true
  | .identify | .statusKeep | .statusClear | .readAccount _ _ | .readMap _ _ | .readGlobals | .readCountersKeep _
  | .readCountersClear _ | .readHold _ | .readCapture | .offer _ | .memoryResponse _ | .powerOnReset _
  | .initialisation _ _ | .initialisationComplete _ | .refclkStop | .refclkResume | .takeHeld | .takeRefusing
  | .mPortReadyEvent | .hPortReadyEvent | .tick | .sliceBoundary | .periodBoundary | .expiry | .publication
  | .regulationRestart | .regenFall | .selectCharacter _ | .dataCharacter _ | .framingError | .frameTimeout
  | .linkBreak | .responseTurnaround | .responseEnd | .unknownCommand _ _ | .endOfBreak => false

/-- The commands that change nothing unless the part runs: all but those of power, REFCLK and initialisation, and the two
offers, which stay on their channels (R138, R139, R118, R51). -/
def onlyWhileRunning : Instr → Bool
  | .offer _ | .memoryResponse _ | .powerOnReset _ | .initialisation _ _ | .initialisationComplete _ | .refclkStop
  | .refclkResume => false
  | .takeHeld | .takeRefusing | .mPortReadyEvent | .hPortReadyEvent | .tick | .sliceBoundary | .periodBoundary
  | .expiry | .publication | .regulationRestart | .regenFall | .selectCharacter _ | .dataCharacter _ | .framingError
  | .frameTimeout | .linkBreak | .responseTurnaround | .responseEnd | .unknownCommand _ _ | .identify | .statusKeep
  | .statusClear | .readAccount _ _ | .writeAccount _ _ _ _ _ _ _ _ _ | .readMap _ _ | .writeMap _ _ _ _ _ _ _ _
  | .readGlobals | .writeGlobals _ _ _ | .copyLiveToStaged | .commit | .cancelCommit | .readCountersKeep _
  | .readCountersClear _ | .readHold _ | .flushRelease _ | .flushRefuse _ | .readCapture | .clearCapture | .setMode _
  | .ackAlert _ | .setAlertEnable _ | .endOfBreak => true

/-- The commands that change nothing while REFCLK is stopped: those of the time grid and of the link (R40, R168). -/
def onlyWithRefclk : Instr → Bool
  | .offer _ | .memoryResponse _ | .powerOnReset _ | .initialisation _ _ | .takeHeld | .takeRefusing
  | .mPortReadyEvent | .hPortReadyEvent | .regulationRestart | .regenFall | .refclkStop | .refclkResume
  | .endOfBreak => false
  | .initialisationComplete _ | .tick | .sliceBoundary | .periodBoundary | .expiry | .publication
  | .selectCharacter _ | .dataCharacter _ | .framingError | .frameTimeout | .linkBreak | .responseTurnaround
  | .responseEnd | .unknownCommand _ _ | .identify | .statusKeep | .statusClear | .readAccount _ _
  | .writeAccount _ _ _ _ _ _ _ _ _ | .readMap _ _ | .writeMap _ _ _ _ _ _ _ _ | .readGlobals
  | .writeGlobals _ _ _ | .copyLiveToStaged | .commit | .cancelCommit | .readCountersKeep _ | .readCountersClear _
  | .readHold _ | .flushRelease _ | .flushRefuse _ | .readCapture | .clearCapture | .setMode _ | .ackAlert _
  | .setAlertEnable _ => true

end Sys2Proof.Safety
end

