-- ==== Sys2Proof/Certificates/Slice0/Obligations.lean ====
section
/-! DEFINITION. The statements for the provers, from the numbered rules of spec/. A statement whose docstring names a log
entry rests, in the clause named, on a choice of the model and not on a rule. -/

section

open Sys2Proof Sys2Proof.Machine Sys2Proof.Safety

/-! ### The step -/

/-- A step runs the command at the front of the queue on the state with the rest of the queue. -/
def Obligations.StepRunsFrontCommand : Prop :=
  ∀ (c : Instr) (s : State) (rest : List Instr),
    step { s with pending := c :: rest } = exec c { s with pending := rest }

/-- On an empty queue one REFCLK cycle passes (log 3): nothing while the part does not run or REFCLK is stopped (R40,
R48); else, with the link and MDI at rest, the cycle count advances, or a tick occurs (R35), and is not
one that falls together with a restart (R47, log 6). -/
def Obligations.EmptyQueuePassesOneRefclkCycle : Prop :=
  ∀ s : State, s.pending = [] →
    (¬ClockRunning s → step s = .next s) ∧
    (ClockRunning s → s.link.state = .unselected → s.link.mdo = none → LineIdle s →
      (s.time.cycle + 1 < s.store.live.prescale + 1 →
        step s = .next { s with time := { s.time with cycle := s.time.cycle + 1, dropsTick := false } }) ∧
      (s.store.live.prescale + 1 ≤ s.time.cycle + 1 →
        step s = exec .tick { s with time := { s.time with dropsTick := false } }))

/-- Every command answers a next state and leaves the commands that wait as they are: no row of the table faults or is
refused. That it does so from every state, also for an event that cannot come there, is the model's choice (log 2), and so is
that it does so on operands that cannot be sent (log 20). -/
def Obligations.EveryCommandCompletesAndKeepsTheQueue : Prop :=
  ∀ (i : Instr) (s : State), ∃ t, exec i s = .next t ∧ t.pending = s.pending

/-! ### Power-on reset and initialisation -/

/-- The values a power-on reset gives (R19, R32, R48, R72, R98, R118, R130, R133, R149, R153, R159), and with them every law
that the invariants below keep. Not from these rules but the model's choice: that `State.reset` is the part before
initialisation (log 8) with no source asserting the reset, so that ALERTn is driven (log 15), and that the four counts of
the Time Base are 0 before the initialisation complete event, on which `GridInRange` rests (log 10). -/
def Obligations.ResetLeavesPowerOnValuesAndLaws : Prop :=
  let s := State.reset
  s.power.phase = .inReset ∧ s.reg.mode = .pass ∧ s.hostPort.head = none ∧ s.hostPort.tagWaits = 0 ∧
  s.hostPort.slotWaits = 0 ∧ s.memPort.resp = none ∧ s.memPort.strays = 0 ∧
  (∀ a : AccountIndex, accountOf s a =
    { balance := 0, outstanding := 0, held := 0
      counters :=
        { issuedRequests := 0, issuedBeats := 0, holds := 0, creditRefusals := 0, expiries := 0
          flushRefusals := 0, overdrawCredits := 0, peakHeld := 0, peakWait := 0 } }) ∧
  (∀ a : AccountIndex, s.store.live.accounts[a] =
    { mode := .meter, quantum := 0, extra := 0, ceiling := 0, weight := 1, cap := 0, maxWait := 0
      priority := 0 }) ∧
  (∀ i : Fin 24, s.store.live.map[i] =
    { valid := false, idValue := 0, idMask := 0, basePage := 0, limitPage := 0, filter := .both, account := 0 }) ∧
  s.store.live.prescale = 99 ∧ s.store.live.sliceLength = 1000 ∧ s.store.live.unmapped = .account 0 ∧
  s.store.staged = s.store.live ∧ s.store.commitPending = false ∧
  s.pool = [] ∧ s.outstanding = [] ∧ s.merger = .memory ∧
  s.capture = { records := [], lost := 0, seq := 0 } ∧
  s.alert = { causes := 0x10, enables := 0x10 } ∧ alertnDriven s = true ∧
  s.link.state = .unselected ∧ s.link.mdo = none ∧ s.link.errors = 0 ∧
  BalancesBounded s ∧ SlotsDistinct s ∧ HeldCountsAgree s ∧ PairsDistinct s ∧ OutstandingCountsAgree s ∧
  OutstandingBounded s ∧ WaitingResponseMatched s ∧ EmptyBeforeRunning s ∧ PoolSettled s ∧ HeadJudged s ∧
  StoreSound s ∧ StoreInRange s ∧ GridInRange s ∧ RingInRange s ∧ RingConsecutive s ∧ GlobalCountersInRange s ∧
  AccountCountersInRange s ∧ linkSound s = true ∧ receiverSound s = true ∧ ResetSourcesAgree s ∧
  discardSound s = true

/-- POWER_ON_RESET as a source asserts the reset gives every block its power-on value (R138), with ALERTn driven unless the supply
is low (R141), and one that begins while another is in force changes nothing further but that its source asserts too; as a source
releases it, it changes this source alone (R138). Not from these rules but the model's choice: that the row is a change of one
source (log 15), that a memory response that waits is forgotten (log 7), that REFCLK stays as it is (log 8), that station and rate
are 0 (log 9), REGEN low and the counts 0 (log 10), and that the outputs `sent` and `issued` are none (log 11). The queue of
waiting commands and the levels to come on MDI are not the part's to reset. -/
def Obligations.PowerOnResetGivesPowerOnValues : Prop :=
  ∀ (src : ResetSource) (s : State),
    (s.power.resetnLow = false → s.power.supplyLow = false → ∃ t, exec (.powerOnReset (.asserts src)) s = .next t ∧
      t = { State.reset with
        power :=
          { phase := .inReset, refclk := s.power.refclk, resetnLow := decide (src = .resetn),
            supplyLow := decide (src = .detector), station := 0, rate := 0 }
        mdi := s.mdi
        pending := s.pending } ∧
      alertnDriven t = decide (src = .resetn)) ∧
    (s.power.resetnLow = true ∨ s.power.supplyLow = true → exec (.powerOnReset (.asserts src)) s = .next
      { s with power :=
        { s.power with
          resetnLow := s.power.resetnLow || decide (src = .resetn)
          supplyLow := s.power.supplyLow || decide (src = .detector) } }) ∧
    exec (.powerOnReset (.releases src)) s = .next
      { s with power :=
        { s.power with
          resetnLow := s.power.resetnLow && !decide (src = .resetn)
          supplyLow := s.power.supplyLow && !decide (src = .detector) } }

/-- From a power-on reset until the initialisation complete event, and for the grid and the link while REFCLK is stopped,
no event is taken (R138, R139, R40, R168). -/
def Obligations.EventsOutsideRunningChangeNothing : Prop :=
  ∀ (i : Instr) (s : State),
    (¬Running s → onlyWhileRunning i = true → exec i s = .next s) ∧
    (s.power.refclk = false → onlyWithRefclk i = true → exec i s = .next s)

/-- INITIALISATION begins initialisation when no source asserts the reset any more, with the straps sampled (R138, R139; at its
begin, log 16); while one does the reset lasts, and the row names nothing that comes about (log 2). INITIALISATION_COMPLETE samples
REGEN without a restart, starts the grid at slice 0 of period 0 and opens the ports; a response offered before is stray
(R140, R118). A head offered before is first judged at that event, as a new head: the two together are the same as the event
followed by the offer (R51). -/
def Obligations.InitialisationSamplesAndStarts : Prop :=
  (∀ (stn : BitVec 5) (rate : BitVec 2) (level : Bool) (s : State),
      (s.power.phase = .inReset →
        (s.power.resetnLow = true ∨ s.power.supplyLow = true → exec (.initialisation stn rate) s = .next s) ∧
        (s.power.resetnLow = false → s.power.supplyLow = false → exec (.initialisation stn rate) s = .next
          { s with power := { s.power with phase := .initialising, station := stn, rate := rate } })) ∧
      (s.power.phase = .initialising → s.power.refclk = true → s.hostPort.head = none → s.outstanding = [] →
        (s.memPort.resp = none → exec (.initialisationComplete level) s = .next
          { s with
            power := { s.power with phase := .running }
            reg := { s.reg with regenHigh := level }
            time := { cycle := 0, tick := 0, slice := 0, period := 0 } }) ∧
        (s.memPort.resp ≠ none → exec (.initialisationComplete level) s = .next
          { s with
            power := { s.power with phase := .running }
            reg := { s.reg with regenHigh := level }
            time := { cycle := 0, tick := 0, slice := 0, period := 0 }
            memPort := { s.memPort with resp := none, strays := min (s.memPort.strays + 1) 65535 }
            alert := { s.alert with causes := s.alert.causes ||| 0x08 } }))) ∧
  (∀ (r : Request) (level : Bool) (s : State), s.power.phase = .initialising → s.power.refclk = true →
      s.hostPort.head = none → s.memPort.resp = none →
      ∃ early running t : State,
        exec (.offer r) s = .next early ∧ exec (.initialisationComplete level) s = .next running ∧
        exec (.initialisationComplete level) early = .next t ∧ exec (.offer r) running = .next t)

/-! ### The time grid -/

/-- TICK: the cycle count returns to 0 and the tick count advances; the tick that completes a count of L ticks is a slice
boundary instead (R35, R36). A tick that falls together with a restart and is taken after it is discarded, with the boundary
and the publication it would have made (R47); which tick of the queue that is, log 6 says. -/
def Obligations.TickCountsTowardTheSliceBoundary : Prop :=
  ∀ s : State, ClockRunning s →
    (s.time.dropsTick = false →
      (s.time.tick + 1 < s.store.live.sliceLength →
        exec .tick s = .next { s with time := { s.time with cycle := 0, tick := s.time.tick + 1 } }) ∧
      (s.store.live.sliceLength ≤ s.time.tick + 1 → exec .tick s = exec .sliceBoundary s)) ∧
    (s.time.dropsTick = true → ∀ i ∈ tickRows,
      exec i s = .next { s with time := { s.time with dropsTick := false } })

/-- SLICE_BOUNDARY advances the slice index, and the period number at slice 0 (R36, R37), publishes a pending commit at a
period boundary (R126), and grants every account Q + 1 below E and Q else, clipped to C, by the parameters live from the
boundary on (R42, R9, R45). The fields not named stay. A boundary that falls together with a restart and is taken after it
does not occur (R47): TickCountsTowardTheSliceBoundary says so. -/
def Obligations.SliceBoundaryGrantsEveryAccount : Prop :=
  ∀ s : State, TicksCount s → ∃ t, exec .sliceBoundary s = .next t ∧
    t.time.cycle = 0 ∧ t.time.tick = 0 ∧ t.time.slice = (s.time.slice + 1) % 32 ∧
    t.time.period = (if (s.time.slice + 1) % 32 = 0 then (s.time.period + 1) % 65536 else s.time.period) ∧
    t.store = (if (s.time.slice + 1) % 32 = 0 ∧ s.store.commitPending = true
      then { staged := s.store.staged, live := s.store.staged, commitPending := false } else s.store) ∧
    (∀ a : AccountIndex,
      (accountOf t a).balance = min ((accountOf s a).balance +
        (if t.time.slice < (liveParams t a).extra then (liveParams t a).quantum + 1 else (liveParams t a).quantum))
        (liveParams t a).ceiling) ∧
    (∀ a : AccountIndex, (accountOf t a).outstanding = (accountOf s a).outstanding) ∧
    t = { s with
      time := t.time, store := t.store, accounts := t.accounts, pool := t.pool, capture := t.capture,
      alert := t.alert, hostPort := { t.hostPort with sent := s.hostPort.sent } }

/-- PERIOD_BOUNDARY and PUBLICATION: the boundary at which the slice index returns to 0 advances the period number and
publishes a pending commit: staged to live, commit pending cleared, COMMIT_DONE set, balances clipped and granted by the new
parameters (R37, R126, R11, R45). At any other moment, and PUBLICATION with no commit pending at every moment, the two rows name
nothing that comes about, and change nothing (log 1). -/
def Obligations.PeriodBoundaryPublishesThePendingCommit : Prop :=
  ∀ s : State, TicksCount s →
    ((s.time.slice + 1) % 32 = 0 → ∃ t, exec .periodBoundary s = .next t ∧ exec .sliceBoundary s = .next t ∧
      t.time = { cycle := 0, tick := 0, slice := 0, period := (s.time.period + 1) % 65536 } ∧
      (s.store.commitPending = false → t.store = s.store) ∧
      (s.store.commitPending = true → exec .publication s = .next t ∧
        t.store = { staged := s.store.staged, live := s.store.staged, commitPending := false } ∧
        t.alert.causes &&& 0x02 = 0x02 ∧
        ∀ a : AccountIndex, let p := s.store.staged.accounts[a]
          (accountOf t a).balance =
            min ((accountOf s a).balance + (if 0 < p.extra then p.quantum + 1 else p.quantum)) p.ceiling)) ∧
    (s.store.commitPending = false → exec .publication s = .next s) ∧
    ((s.time.slice + 1) % 32 ≠ 0 → exec .periodBoundary s = .next s ∧ exec .publication s = .next s)

/-- At a slice boundary the wait of every HELD record increases by 1 and stays at 255 (R85), peak wait follows (R16), and
a record expires, in its slot, if and only if it is not exempt, its account has a live T other than 0, its wait has reached T
and its blocker is not NONE (R86), judged against the HELD records older than it that the boundary leaves, after the refusal
for credit (R80, R83). A HELD record not in the pool before is the head just taken. -/
def Obligations.SliceBoundaryAgesAndExpires : Prop :=
  ∀ s t : State, TicksCount s → exec .sliceBoundary s = .next t →
    (∀ (k : Nat) (i : SlotIndex) (h : HeldRecord), s.pool[k]? = some ⟨i, .held h⟩ →
      let p := liveParams t h.account
      let wait := min (h.wait + 1) 255
      let blocker := admissionTest t h.account h.exempt h.req (heldRecords (t.pool.take k))
      let refused : Cause → PoolEntry := fun c =>
        ⟨i, .refusing { id := h.req.id, tag := h.req.tag, dir := h.req.dir, cause := c, account := some h.account }⟩
      let forCredit : Prop :=
        p.mode = .refuse ∧ regulationActive t = true ∧ h.exempt = false ∧ blocker = .credit
      let forWait : Prop := h.exempt = false ∧ p.maxWait ≠ 0 ∧ p.maxWait ≤ wait ∧ blocker ≠ .none
      (forCredit → t.pool[k]? = some (refused .credit)) ∧
      (¬forCredit → forWait → t.pool[k]? = some (refused .expired)) ∧
      (¬forCredit → ¬forWait → t.pool[k]? = some ⟨i, .held { h with wait := wait, blocker := blocker }⟩)) ∧
    (∀ (k : Nat) (i : SlotIndex) (r : RefusingRecord), s.pool[k]? = some ⟨i, .refusing r⟩ →
      t.pool[k]? = some ⟨i, .refusing r⟩) ∧
    (∀ (i : SlotIndex) (h' : HeldRecord), (⟨i, .held h'⟩ : PoolEntry) ∈ t.pool →
      (∃ h : HeldRecord, (⟨i, .held h⟩ : PoolEntry) ∈ s.pool ∧ h'.req = h.req ∧ h'.account = h.account ∧
        h'.exempt = h.exempt ∧ h'.wait = min (h.wait + 1) 255) ∨
      (∃ hd : Head, s.hostPort.head = some hd ∧ t.hostPort.head = none ∧ h'.req = hd.req ∧ h'.wait = 0 ∧
        h'.exempt = false)) ∧
    (∀ (i : SlotIndex) (r : RefusingRecord), (⟨i, .refusing r⟩ : PoolEntry) ∈ t.pool → r.cause = .expired →
      (⟨i, .refusing r⟩ : PoolEntry) ∈ s.pool ∨
      ∃ h : HeldRecord, (⟨i, .held h⟩ : PoolEntry) ∈ s.pool ∧
        r = { id := h.req.id, tag := h.req.tag, dir := h.req.dir, cause := .expired, account := some h.account } ∧
        h.exempt = false ∧ (liveParams t h.account).maxWait ≠ 0 ∧
        (liveParams t h.account).maxWait ≤ min (h.wait + 1) 255) ∧
    (∀ h ∈ heldRecords s.pool, min (h.wait + 1) 255 ≤ (accountOf t h.account).counters.peakWait) ∧
    (∀ a : AccountIndex, (accountOf t a).counters.peakWait = (accountOf s a).counters.peakWait ∨
      ∃ h ∈ heldRecords s.pool, h.account = a ∧ (accountOf t a).counters.peakWait = min (h.wait + 1) 255)

/-- EXPIRY of the one HELD record of the pool, short of credit after the boundary's grant in a restrained HOLD account: it
becomes REFUSING with cause EXPIRED in its slot, its account's held count falls and expiries rises, and the capture record
carries the slice just beginning (R86, R82, R50). For every pool the row is the SLICE_BOUNDARY of the moment where some record
expires at it, and names nothing that comes about where none does (log 1): SliceBoundaryAgesAndExpires says what it does. -/
def Obligations.ExpiryRefusesTheWaitingRecord : Prop :=
  ∀ s : State, TicksCount s →
    (∀ (i : SlotIndex) (h : HeldRecord), let p := liveParams s h.account
      let slice := s.time.slice + 1
      let balance := min ((accountOf s h.account).balance + (if slice < p.extra then p.quantum + 1 else p.quantum))
        p.ceiling
      s.pool = [⟨i, .held h⟩] → s.hostPort.head = none → slice < 32 → regulationActive s = true → p.mode = .hold →
      p.cap = 0 → h.exempt = false → p.maxWait ≠ 0 → p.maxWait ≤ min (h.wait + 1) 255 → balance < cost p h.req →
      ∃ t, exec .expiry s = .next t ∧
        t.pool = [⟨i, .refusing
          { id := h.req.id, tag := h.req.tag, dir := h.req.dir, cause := .expired, account := some h.account }⟩] ∧
        accountOf t h.account = { accountOf s h.account with
          balance := balance
          held := (accountOf s h.account).held - 1
          counters := { (accountOf s h.account).counters with
            expiries := min ((accountOf s h.account).counters.expiries + 1) 4294967295
            peakWait := max (accountOf s h.account).counters.peakWait (min (h.wait + 1) 255) } } ∧
        (∀ b : AccountIndex, b ≠ h.account → accountOf t b = { accountOf s b with
          balance := min ((accountOf s b).balance +
            (if slice < (liveParams s b).extra then (liveParams s b).quantum + 1 else (liveParams s b).quantum))
            (liveParams s b).ceiling }) ∧
        t.capture = s.capture.add
          { seq := s.capture.seq, cause := .expired, account := some h.account, id := h.req.id, tag := h.req.tag,
            dir := h.req.dir, addr := h.req.addr, len := h.req.len, period := s.time.period, slice := slice } ∧
        t.alert.causes = s.alert.causes ||| 0x01 ∧
        t = { s with
          time := { cycle := 0, tick := 0, slice := slice, period := s.time.period }
          pool := t.pool, accounts := t.accounts, capture := t.capture
          alert := { s.alert with causes := t.alert.causes } }) ∧
    (∀ t : State, exec .sliceBoundary s = .next t →
      let someExpires : Prop := ∃ (k : Nat) (i : SlotIndex) (h : HeldRecord) (r : RefusingRecord),
        s.pool[k]? = some ⟨i, .held h⟩ ∧ t.pool[k]? = some ⟨i, .refusing r⟩ ∧ r.cause = .expired
      (someExpires → exec .expiry s = .next t) ∧ (¬someExpires → exec .expiry s = .next s)) ∧
    (heldRecords s.pool = [] → exec .expiry s = .next s)

/-- REGULATION_RESTART, a rise of REGEN: a pending commit is published first, the counts are set to 0, every balance is set
to its live ceiling, and the mode, the Outstanding Table, the preference and the slots stay (R137, R46, R12, R95). With no head
offered and a sound configuration every counter, every held count, the Capture Ring, the enables and every cause but the
COMMIT_DONE of a publication stay too (R12, R137, R150); what a head offered may do at the restart is log 13. A tick due at the
restart, or the boundary it would have made, that waits directly behind it falls together with it and is discarded: the counts are
0 after both (R47, log 6); a tick not due is a later one, and counts (R46). With REGEN already high no rise comes about (log 2). -/
def Obligations.RestartFillsBalancesAndClearsCounts : Prop :=
  ∀ s : State, Running s →
    (s.reg.regenHigh = false → ∃ t, exec .regulationRestart s = .next t ∧
      t.reg = { s.reg with regenHigh := true } ∧
      t.time.cycle = 0 ∧ t.time.tick = 0 ∧ t.time.slice = 0 ∧ t.time.period = 0 ∧
      t.store = (if s.store.commitPending = true
        then { staged := s.store.staged, live := s.store.staged, commitPending := false } else s.store) ∧
      (s.store.commitPending = true → t.alert.causes &&& 0x02 = 0x02) ∧
      (∀ a : AccountIndex, (accountOf t a).balance = (liveParams t a).ceiling ∧
        (accountOf t a).outstanding = (accountOf s a).outstanding) ∧
      (s.hostPort.head = none → poolSlots t = poolSlots s) ∧
      (s.hostPort.head = none → StoreSound s → StoreInRange s →
        (∀ h ∈ heldRecords s.pool, 1 ≤ h.req.len ∧ h.req.len ≤ 16) → t.hostPort = s.hostPort ∧
        t.capture = s.capture ∧
        t.alert = (if s.store.commitPending = true
          then { s.alert with causes := s.alert.causes ||| 0x02 } else s.alert) ∧
        ∀ a : AccountIndex, accountOf t a = { accountOf s a with balance := (liveParams t a).ceiling }) ∧
      (∀ (i : Instr) (rest : List Instr), s.pending = i :: rest → FallsTogether s i →
        step t = .next { t with time := { cycle := 0, tick := 0, slice := 0, period := 0 }, pending := rest }) ∧
      ((∀ i : Instr, s.pending.head? = some i → ¬FallsTogether s i) →
        t.time = { cycle := 0, tick := 0, slice := 0, period := 0 }) ∧
      t = { s with
        reg := t.reg, time := t.time, store := t.store, accounts := t.accounts, pool := t.pool,
        capture := t.capture, alert := t.alert, hostPort := { t.hostPort with sent := s.hostPort.sent } }) ∧
    (s.reg.regenHigh = true → exec .regulationRestart s = .next s)

/-- No record is refused for credit at a restart, and none keeps the blocker CREDIT (R95): every restrained account is full
and its ceiling covers its costliest request. Stated for well-formed requests and with no head offered, so that the pool's
own records are all there are. -/
def Obligations.RestartRefusesNoRecord : Prop :=
  ∀ s t : State, Running s → s.reg.regenHigh = false → StoreSound s → StoreInRange s → s.hostPort.head = none →
    (∀ h ∈ heldRecords s.pool, 1 ≤ h.req.len ∧ h.req.len ≤ 16) → exec .regulationRestart s = .next t →
    t.capture = s.capture ∧ refusingRecords t.pool = refusingRecords s.pool ∧
    (heldRecords t.pool).map heldFields =
      (heldRecords s.pool).map heldFields ∧
    ∀ h ∈ heldRecords t.pool, h.blocker ≠ .credit

/-- REGEN_FALL: regulation ends; the grid, the balances, the configuration and every counter stay; no record is refused,
and CAP and CREDIT lift (R136, R94). Stated with no head offered. With REGEN already low no fall comes about (log 2). -/
def Obligations.RegenFallLiftsCapAndCredit : Prop :=
  ∀ s : State, Running s →
    (s.reg.regenHigh = true → s.hostPort.head = none → ∃ t, exec .regenFall s = .next t ∧
      regulationActive t = false ∧
      t = { s with reg := { s.reg with regenHigh := false }, pool := t.pool } ∧
      poolSlots t = poolSlots s ∧ refusingRecords t.pool = refusingRecords s.pool ∧
      (heldRecords t.pool).map heldFields =
        (heldRecords s.pool).map heldFields ∧
      ∀ h ∈ heldRecords t.pool, h.blocker ≠ .cap ∧ h.blocker ≠ .credit) ∧
    (s.reg.regenHigh = false → exec .regenFall s = .next s)

/-- REFCLK_STOP cuts the character on MDO short, abandons a character being received and keeps the link state; a response
goes on with its next character at REFCLK_RESUME (R40, R168). Not from these rules but the model's choice: that the receiver waits
for an idle high also where it held an open character whose stop bit sampled 0 (log 23), that the low time counted so far is kept
over the stop (log 18), that a character which a select left to be finished on MDO is over for good (log 17), that a response whose
last character was cut ends at the resume, MDO released, SELECTED (log 12), and that no tick that falls together with a restart is
left at a stop (log 6). A stop of a stopped clock and a resume of a running one change nothing (log 2). -/
def Obligations.RefclkStopAndResume : Prop :=
  ∀ s : State,
    (s.power.refclk = true → ¬ResponseBegun s → exec .refclkStop s = .next
      { s with
        power := { s.power with refclk := false }
        time := { s.time with dropsTick := false }
        link := { s.link with mdo := none, receiver := .waitHigh } }) ∧
    (∀ r : Response, s.power.refclk = true → s.link.state = .responding r → r.begun = true →
      exec .refclkStop s = .next
        { s with
          power := { s.power with refclk := false }
          time := { s.time with dropsTick := false }
          link := { s.link with
            mdo := none, receiver := .waitHigh, state := .responding { r with sent := r.sent + 1 } } }) ∧
    (s.power.refclk = false → exec .refclkStop s = .next s) ∧
    (s.power.refclk = false → ¬ResponseBegun s → exec .refclkResume s = .next
      { s with power := { s.power with refclk := true } }) ∧
    (∀ (r : Response) (b : Byte), s.power.refclk = false → s.link.state = .responding r → r.begun = true →
      (responseFrame r)[r.sent]? = some b → exec .refclkResume s = .next
        { s with
          power := { s.power with refclk := true }
          link := { s.link with mdo := some { byte := b, elapsed := 0 } } }) ∧
    (∀ r : Response, s.power.refclk = false → s.link.state = .responding r → r.begun = true →
      (responseFrame r).length ≤ r.sent → exec .refclkResume s = .next
        { s with
          power := { s.power with refclk := true }
          link := { s.link with state := .selected, gapTimer := 0, mdo := none } }) ∧
    (s.power.refclk = true → exec .refclkResume s = .next s)

/-! ### Admission -/

/-- The form check (R54) on 32-bit unsigned addresses, and the overlap of two well-formed byte ranges (R52, R61): for every
length the channel can carry. That a READ with an empty list of write data carries data, and so is malformed, is the model's
reading (log 20). -/
def Obligations.FormCheckAndByteRangeOverlap : Prop :=
  ∀ a b : Request, a.wellFormed = true → b.wellFormed = true →
    (malformed a = true ↔
      ¬ 8 ∣ a.addr.toNat ∨ (a.addr.toNat + 8 * a.len - 1) / 4096 ≠ a.addr.toNat / 4096 ∨
      (a.dir = .write ∧ (a.data.getD []).length ≠ a.len) ∨ (a.dir = .read ∧ a.data ≠ none)) ∧
    (malformed a = false → malformed b = false →
      (overlaps a b = true ↔
        a.addr.toNat ≤ b.addr.toNat + 8 * b.len - 1 ∧ b.addr.toNat ≤ a.addr.toNat + 8 * a.len - 1))

/-- The Classifier: an entry matches when it is valid and its ID, page and direction tests pass; the lowest-index matching
entry names the account; where none matches the unmapped action decides (R22 to R26). -/
def Obligations.ClassificationTakesLowestMatchingEntry : Prop :=
  ∀ (c : Configuration) (r : Request),
    (∀ e : MapEntry, entryMatches e r = true ↔
      e.valid = true ∧ (∀ k : Fin 6, e.idMask.getLsbD k = true → r.id.getLsbD k = e.idValue.getLsbD k) ∧
      (e.basePage.toNat ≤ r.addr.toNat / 4096 ∧ r.addr.toNat / 4096 ≤ e.limitPage.toNat) ∧
      (e.filter = .both ∨ (e.filter = .read ∧ r.dir = .read) ∨ (e.filter = .write ∧ r.dir = .write))) ∧
    (∀ i : Fin 24, entryMatches c.map[i] r = true → (∀ j : Fin 24, j < i → entryMatches c.map[j] r = false) →
      classify c r = some c.map[i].account) ∧
    ((∀ i : Fin 24, entryMatches c.map[i] r = false) →
      (∀ n : AccountIndex, c.unmapped = .account n → classify c r = some n) ∧
      (c.unmapped = .refuse → classify c r = none))

/-- The admission test takes the first blocker that applies, in the order ID_ORDER, HAZARD, ACCOUNT_ORDER, CAP, CREDIT;
the last two apply only to a non-exempt subject of a restrained account (R59 to R64, R3, R4). -/
def Obligations.AdmissionTestTakesFirstBlocker : Prop :=
  ∀ (s : State) (a : AccountIndex) (exempt : Bool) (r : Request) (older : List HeldRecord),
    let p := liveParams s a
    let strict : Prop := exempt = false ∧ s.reg.mode = .enforce ∧ s.reg.regenHigh = true ∧
      (p.mode = .hold ∨ p.mode = .refuse)
    let price := if r.dir = .write then r.len * p.weight else r.len
    admissionTest s a exempt r older =
      if ∃ h ∈ older, h.req.id = r.id then .idOrder
      else if ∃ h ∈ older, overlaps h.req r = true ∧ (h.req.dir = .write ∨ r.dir = .write) then .hazard
      else if ∃ h ∈ older, h.account = a then .accountOrder
      else if strict ∧ p.cap ≠ 0 ∧ p.cap ≤ (accountOf s a).outstanding then .cap
      else if strict ∧ (accountOf s a).balance < price then .credit
      else .none

/-- The disposition of the head: form, tag conflict, classification, admission test, in that order (R53, R55, R56, R58),
and from blocker to disposition as R65 tables it. -/
def Obligations.DispositionOfTheHead : Prop :=
  ∀ (s : State) (r : Request),
    (malformed r = true → disposition s r = .refuse .malformed none) ∧
    (malformed r = false → InTagConflict s r → disposition s r = .waitTag) ∧
    (malformed r = false → ¬InTagConflict s r → classify s.store.live r = none →
      disposition s r = .refuse .unmapped none) ∧
    (∀ a : AccountIndex, malformed r = false → ¬InTagConflict s r → classify s.store.live r = some a →
      let b := admissionTest s a false r (heldRecords s.pool)
      (b = .none → disposition s r = .issue a) ∧
      (b = .credit → (liveParams s a).mode = .refuse → disposition s r = .refuse .credit (some a)) ∧
      (b ≠ .none → ¬(b = .credit ∧ (liveParams s a).mode = .refuse) → disposition s r = .hold a b) ∧
      ((liveParams s a).mode = .meter ∨ regulationActive s = false → b ≠ .cap ∧ b ≠ .credit))

/-- OFFER of a head that is not taken at once: it waits for an M-port pick (R66), or in a tag wait, counted once (R57), or
in a slot wait, counted once with SLOT_STALL (R69). While a head is offered another OFFER does not come about (log 2). -/
def Obligations.OfferedHeadWaits : Prop :=
  ∀ (r : Request) (s : State), Running s →
    (s.hostPort.head = none →
      (∀ a : AccountIndex, disposition s r = .issue a → exec (.offer r) s = .next
        { s with hostPort := { s.hostPort with
          head := some { req := r, tagWaitCounted := false, slotWaitCounted := false } } }) ∧
      (InTagConflict s r → exec (.offer r) s = .next
        { s with hostPort := { s.hostPort with
          head := some { req := r, tagWaitCounted := true, slotWaitCounted := false }
          tagWaits := min (s.hostPort.tagWaits + 1) 65535 } }) ∧
      (¬InTagConflict s r → PoolFull s →
        ((∃ a b, disposition s r = .hold a b) ∨ ∃ c a, disposition s r = .refuse c a) →
        exec (.offer r) s = .next
          { s with
            hostPort := { s.hostPort with
              head := some { req := r, tagWaitCounted := false, slotWaitCounted := true }
              slotWaits := min (s.hostPort.slotWaits + 1) 65535 }
            alert := { s.alert with causes := s.alert.causes ||| 0x04 } })) ∧
    (s.hostPort.head ≠ none → exec (.offer r) s = .next s)

/-- The taking of a head with disposition HOLD into the lowest-index FREE slot, at its OFFER or, for a head that waits, by
TAKE_HELD: a HELD record with wait 0, not exempt, with the blocker found, last in pool order; holds and held count increase
and peak held follows (R67, R78, R14, R15). -/
def Obligations.HeadTakenAsHeld : Prop :=
  ∀ (r : Request) (a : AccountIndex) (b : Blocker) (i : SlotIndex) (s : State), Running s → LowestFree s i →
    disposition s r = .hold a b →
    let acc := accountOf s a
    let taken : State := { s with
      pool := s.pool ++
        [⟨i, .held { req := r, account := a, wait := 0, exempt := false, blocker := b }⟩]
      hostPort := { s.hostPort with head := none }
      accounts := s.accounts.set a.val { acc with
        held := acc.held + 1
        counters := { acc.counters with
          holds := min (acc.counters.holds + 1) 4294967295
          peakHeld := max acc.counters.peakHeld (acc.held + 1) } } }
    (s.hostPort.head = none → exec (.offer r) s = .next taken) ∧
    (∀ h : Head, s.hostPort.head = some h → h.req = r → exec .takeHeld s = .next taken)

/-- The taking of a head with disposition REFUSE into the lowest-index FREE slot, at its OFFER or, for a head that waits, by
TAKE_REFUSING: a REFUSING record without address, length or data, a capture record and CAPTURED; credit refusals increase for
cause CREDIT alone, and no balance or held count changes (R68, R78, R57, R144, R150). -/
def Obligations.HeadTakenAsRefusing : Prop :=
  ∀ (r : Request) (c : Cause) (a : Option AccountIndex) (i : SlotIndex) (s : State), Running s → LowestFree s i →
    ¬InTagConflict s r → disposition s r = .refuse c a →
    let taken : State := { s with
      pool := s.pool ++ [⟨i, .refusing { id := r.id, tag := r.tag, dir := r.dir, cause := c, account := a }⟩]
      hostPort := { s.hostPort with head := none }
      capture := s.capture.add
        { seq := s.capture.seq, cause := c, account := a, id := r.id, tag := r.tag, dir := r.dir,
          addr := r.addr, len := r.len, period := s.time.period, slice := s.time.slice }
      alert := { s.alert with causes := s.alert.causes ||| 0x01 }
      accounts := match a with
        | none => s.accounts
        | some a => s.accounts.set a.val { accountOf s a with
            counters := { (accountOf s a).counters with
              creditRefusals := min ((accountOf s a).counters.creditRefusals + 1) 4294967295 } } }
    (a = none ↔ c ≠ .credit) ∧
    (s.hostPort.head = none → exec (.offer r) s = .next taken) ∧
    (∀ h : Head, s.hostPort.head = some h → h.req = r → exec .takeRefusing s = .next taken)

/-! ### Issue -/

/-- The pick of the Issue Arbiter among the eligible HELD records and the head with disposition ISSUE: the highest live
priority; at equal priority HELD before the head; among HELD the oldest (R101, R102). -/
def Obligations.PickIsFirstOfTheHighestPriority : Prop :=
  ∀ s : State,
    (∀ (i : SlotIndex) (h : HeldRecord), pick s = some (.held i h) →
      ∃ front back : List PoolEntry, s.pool = front ++ ⟨i, .held h⟩ :: back ∧ h.blocker = .none ∧
        (∀ g ∈ heldRecords front, g.blocker = .none →
          (liveParams s g.account).priority < (liveParams s h.account).priority) ∧
        (∀ g ∈ heldRecords back, g.blocker = .none →
          (liveParams s g.account).priority ≤ (liveParams s h.account).priority) ∧
        (∀ (hd : Head) (a : AccountIndex), s.hostPort.head = some hd → disposition s hd.req = .issue a →
          (liveParams s a).priority ≤ (liveParams s h.account).priority)) ∧
    (∀ (r : Request) (a : AccountIndex), pick s = some (.head r a) →
      (∃ hd : Head, s.hostPort.head = some hd ∧ hd.req = r ∧ disposition s r = .issue a) ∧
      ∀ g ∈ heldRecords s.pool, g.blocker = .none →
        (liveParams s g.account).priority < (liveParams s a).priority) ∧
    (pick s = none ↔ (∀ g ∈ heldRecords s.pool, g.blocker ≠ .none) ∧
      ∀ (hd : Head) (a : AccountIndex), s.hostPort.head = some hd → disposition s hd.req ≠ .issue a)

/-- The candidates include at most one request of each account, so at most 16, and each is one that cap and credit allow to
go to memory now: a restrained account's balance covers the cost of its candidate that is not exempt (R81, R101, R103). -/
def Obligations.CandidatesAreCoveredAndOnePerAccount : Prop :=
  ∀ s : State, PoolSettled s →
    ((candidates s).map Candidate.account).Nodup ∧ (candidates s).length ≤ 16 ∧
    (∀ (i : SlotIndex) (h : HeldRecord), Candidate.held i h ∈ candidates s →
      restrained s h.account = true → h.exempt = false →
        cost (liveParams s h.account) h.req ≤ (accountOf s h.account).balance ∧
        ((liveParams s h.account).cap = 0 ∨
          (accountOf s h.account).outstanding < (liveParams s h.account).cap)) ∧
    (∀ (r : Request) (a : AccountIndex), Candidate.head r a ∈ candidates s → restrained s a = true →
      cost (liveParams s a) r ≤ (accountOf s a).balance ∧
      ((liveParams s a).cap = 0 ∨ (accountOf s a).outstanding < (liveParams s a).cap))

/-- M_PORT_READY_EVENT with a HELD record picked: the record goes to memory whole, an outstanding entry is added, the account
is charged, in full if restrained and the record not exempt, else what the balance holds with the rest counted as overdraw;
issued requests and issued beats increase, and the record's slot is FREE (R103, R96, R6 to R8, R106). -/
def Obligations.MPortIssuesThePickedHeldRecord : Prop :=
  ∀ (i : SlotIndex) (h : HeldRecord) (s : State), Running s → s.outstanding.length < 16 →
    pick s = some (.held i h) →
    let price := cost (liveParams s h.account) h.req
    let enforced : Prop := restrained s h.account = true ∧ h.exempt = false
    ∃ t, exec .mPortReadyEvent s = .next t ∧
      t.memPort = { s.memPort with issued := some h.req } ∧
      t.outstanding = s.outstanding ++ [{ id := h.req.id, tag := h.req.tag, account := h.account }] ∧
      (∀ b : AccountIndex, b ≠ h.account → (accountOf t b).balance = (accountOf s b).balance ∧
        (accountOf t b).outstanding = (accountOf s b).outstanding ∧
        (accountOf t b).counters.issuedRequests = (accountOf s b).counters.issuedRequests ∧
        (accountOf t b).counters.issuedBeats = (accountOf s b).counters.issuedBeats ∧
        (accountOf t b).counters.overdrawCredits = (accountOf s b).counters.overdrawCredits) ∧
      (accountOf t h.account).outstanding = (accountOf s h.account).outstanding + 1 ∧
      (accountOf t h.account).balance = (accountOf s h.account).balance - price ∧
      (accountOf t h.account).counters.overdrawCredits = (if enforced
        then (accountOf s h.account).counters.overdrawCredits
        else min ((accountOf s h.account).counters.overdrawCredits +
          (price - (accountOf s h.account).balance)) 4294967295) ∧
      (accountOf t h.account).counters.issuedRequests =
        min ((accountOf s h.account).counters.issuedRequests + 1) 4294967295 ∧
      (accountOf t h.account).counters.issuedBeats =
        min ((accountOf s h.account).counters.issuedBeats + h.req.len) 4294967295 ∧
      (s.hostPort.head = none → poolSlots t = (poolSlots s).filter fun j => j != i) ∧
      t = { s with
        memPort := t.memPort, outstanding := t.outstanding, accounts := t.accounts, pool := t.pool,
        capture := t.capture, alert := t.alert, hostPort := { t.hostPort with sent := s.hostPort.sent } }

/-- M_PORT_READY_EVENT with the head picked: it is taken and issued at this event and occupies no slot; its charge is in
full if its account is restrained, else metered; an outstanding entry is added (R66, R103). With 16 requests outstanding or no
candidate the opportunity lapses (R100). -/
def Obligations.MPortIssuesThePickedHeadOrLapses : Prop :=
  ∀ s : State, Running s →
    (∀ (r : Request) (a : AccountIndex), s.outstanding.length < 16 → pick s = some (.head r a) →
      let price := cost (liveParams s a) r
      ∃ t, exec .mPortReadyEvent s = .next t ∧
        t.memPort = { s.memPort with issued := some r } ∧
        t.hostPort = { s.hostPort with head := none } ∧
        t.outstanding = s.outstanding ++ [{ id := r.id, tag := r.tag, account := a }] ∧
        (∀ b : AccountIndex, b ≠ a → (accountOf t b).balance = (accountOf s b).balance ∧
          (accountOf t b).outstanding = (accountOf s b).outstanding ∧
          (accountOf t b).counters.issuedRequests = (accountOf s b).counters.issuedRequests ∧
          (accountOf t b).counters.issuedBeats = (accountOf s b).counters.issuedBeats ∧
          (accountOf t b).counters.overdrawCredits = (accountOf s b).counters.overdrawCredits) ∧
        (accountOf t a).outstanding = (accountOf s a).outstanding + 1 ∧
        (accountOf t a).balance = (accountOf s a).balance - price ∧
        (accountOf t a).counters.overdrawCredits = (if restrained s a = true
          then (accountOf s a).counters.overdrawCredits
          else min ((accountOf s a).counters.overdrawCredits + (price - (accountOf s a).balance)) 4294967295) ∧
        (accountOf t a).counters.issuedRequests =
          min ((accountOf s a).counters.issuedRequests + 1) 4294967295 ∧
        (accountOf t a).counters.issuedBeats = min ((accountOf s a).counters.issuedBeats + r.len) 4294967295 ∧
        poolSlots t = poolSlots s ∧
        t = { s with
          memPort := t.memPort, hostPort := t.hostPort, outstanding := t.outstanding, accounts := t.accounts,
          pool := t.pool, capture := t.capture, alert := t.alert }) ∧
    (16 ≤ s.outstanding.length ∨ pick s = none → exec .mPortReadyEvent s = .next s)

/-! ### Responses -/

/-- MEMORY_RESPONSE: a stray response, whose pair no outstanding entry carries, is taken and dropped, counted, and sets STRAY
(R108); a matched one stays offered and waits (R107). While a response waits the channel is held and another offer does not
come about (log 2). -/
def Obligations.StrayResponseIsDroppedAndCounted : Prop :=
  ∀ (r : MemoryResponse) (s : State), Running s →
    (s.memPort.resp = none →
      ((∀ e ∈ s.outstanding, (e.id, e.tag) ≠ (r.id, r.tag)) → exec (.memoryResponse r) s = .next
        { s with
          memPort := { s.memPort with strays := min (s.memPort.strays + 1) 65535 }
          alert := { s.alert with causes := s.alert.causes ||| 0x08 } }) ∧
      ((∃ e ∈ s.outstanding, (e.id, e.tag) = (r.id, r.tag)) → exec (.memoryResponse r) s = .next
        { s with memPort := { s.memPort with resp := some r } })) ∧
    (s.memPort.resp ≠ none → exec (.memoryResponse r) s = .next s)

/-- H_PORT_READY_EVENT that delivers the waiting memory response, alone or by the preference: the host gets its ID, tag,
status and data unchanged, the matching entry leaves the Outstanding Table, the outstanding count of the account recorded in
it decreases, no balance changes, and the preference becomes REFUSAL (R111, R112, R13). -/
def Obligations.HPortDeliversTheMemoryResponse : Prop :=
  ∀ (r : MemoryResponse) (e : OutstandingEntry) (s : State), Running s → PairsDistinct s →
    s.memPort.resp = some r → e ∈ s.outstanding → e.id = r.id → e.tag = r.tag →
    (refusingRecords s.pool = [] ∨ s.merger = .memory) →
    ∃ t, exec .hPortReadyEvent s = .next t ∧
      t.hostPort.sent = some
        { id := r.id, tag := r.tag, data := r.data, status := if r.status = .okay then .okay else .memFault } ∧
      t.memPort = { s.memPort with resp := none } ∧ t.merger = .refusal ∧
      (∀ x : OutstandingEntry, x ∈ t.outstanding ↔ x ∈ s.outstanding ∧ x ≠ e) ∧
      (∀ b : AccountIndex, (accountOf t b).balance = (accountOf s b).balance ∧
        (accountOf t b).outstanding =
          if b = e.account then (accountOf s b).outstanding - 1 else (accountOf s b).outstanding) ∧
      (s.hostPort.head = none → poolSlots t = poolSlots s) ∧
      t = { s with
        memPort := t.memPort, hostPort := t.hostPort, outstanding := t.outstanding, merger := t.merger,
        accounts := t.accounts, pool := t.pool, capture := t.capture, alert := t.alert }

/-- H_PORT_READY_EVENT that delivers the oldest refusal, alone or by the preference: REFUSED with its cause and no data, the
slot FREE, the preference MEMORY, no balance and no outstanding count changed, and no HELD record re-evaluated (R97, R111,
R113). With nothing waiting the opportunity lapses (R110). -/
def Obligations.HPortDeliversTheOldestRefusalOrLapses : Prop :=
  ∀ s : State, Running s →
    (∀ (front back : List PoolEntry) (i : SlotIndex) (f : RefusingRecord), SlotsDistinct s →
      s.pool = front ++ ⟨i, .refusing f⟩ :: back → refusingRecords front = [] →
      (s.memPort.resp = none ∨ s.merger = .refusal) →
      ∃ t, exec .hPortReadyEvent s = .next t ∧
        t.hostPort.sent = some { id := f.id, tag := f.tag, status := .refused f.cause, data := none } ∧
        t.merger = .memory ∧
        (∀ b : AccountIndex, (accountOf t b).balance = (accountOf s b).balance ∧
          (accountOf t b).outstanding = (accountOf s b).outstanding) ∧
        (∃ taken : List PoolEntry, t.pool = front ++ back ++ taken ∧ taken.length ≤ 1 ∧
          (s.hostPort.head = none → taken = [])) ∧
        t = { s with
          hostPort := t.hostPort, merger := t.merger, accounts := t.accounts, pool := t.pool,
          capture := t.capture, alert := t.alert } ∧
        (s.hostPort.head = none → t = { s with
          hostPort := { s.hostPort with sent := t.hostPort.sent }, merger := .memory, pool := front ++ back })) ∧
    (s.memPort.resp = none → refusingRecords s.pool = [] → exec .hPortReadyEvent s = .next s)

/-- Every requester ID and tag the regulator holds stays held until the one response that carries it is delivered to the
host, or a power-on reset comes; and every response delivered carries a pair that was held (R114). -/
def Obligations.EveryHeldPairIsAnsweredOrKept : Prop :=
  ∀ s t : State, SlotsDistinct s → WaitingResponseMatched s → step s = .next t →
    (∀ p ∈ heldPairs s, p ∈ heldPairs t ∨
      (∃ (rest : List Instr) (resp : HostResponse), s.pending = .hPortReadyEvent :: rest ∧
        t.hostPort.sent = some resp ∧ (resp.id, resp.tag) = p) ∨
      (∃ (src : ResetSource) (rest : List Instr), s.pending = .powerOnReset (.asserts src) :: rest)) ∧
    (∀ resp : HostResponse, t.hostPort.sent = some resp → s.hostPort.sent ≠ some resp →
      (resp.id, resp.tag) ∈ heldPairs s)

/-! ### Configuration -/

/-- WRITE_ACCOUNT at a SELECTED station: a field out of range refuses the whole write with RANGE, a pending commit with
PENDING, else the staged parameters of the account are replaced and the answer is DONE (R120, R176, R190). -/
def Obligations.WriteAccountReplacesStagedParameters : Prop :=
  ∀ (index mode : Byte) (quantum : BitVec 16) (extra : Byte) (ceiling : BitVec 16)
    (weight cap maxWait priority : Byte) (s : State), SelectedListening s →
    let i := Instr.writeAccount index mode quantum extra ceiling weight cap maxWait priority
    let inRange : Prop := index.toNat ≤ 15 ∧ mode.toNat ≤ 2 ∧ quantum.toNat ≤ 4095 ∧ extra.toNat ≤ 31 ∧
      (weight.toNat = 1 ∨ weight.toNat = 2) ∧ cap.toNat ≤ 16 ∧ priority.toNat ≤ 3
    (¬inRange → exec i s = .next (answering .range [] s)) ∧
    (inRange → s.store.commitPending = true → exec i s = .next (answering .pending [] s)) ∧
    (inRange → s.store.commitPending = false → ∀ (a : AccountIndex) (m : AccountMode),
      index.toNat = a.val → modeByte m = mode →
      exec i s = .next (answering .done []
        { s with store := { s.store with staged := { s.store.staged with
          accounts := s.store.staged.accounts.set a.val
            { mode := m, quantum := quantum.toNat, extra := extra.toNat, ceiling := ceiling.toNat
              weight := weight.toNat, cap := cap.toNat, maxWait := maxWait.toNat
              priority := priority.toNat } } } }))

/-- WRITE_MAP and WRITE_GLOBALS at a SELECTED station: as WRITE_ACCOUNT, for one staged map entry and for the three staged
globals (R120, R176, R191, R192, R31, R38). -/
def Obligations.WriteMapAndGlobalsReplaceStagedRecords : Prop :=
  (∀ (index valid idValue idMask : Byte) (basePage limitPage : BitVec 24) (filter account : Byte) (s : State),
      SelectedListening s →
      let i := Instr.writeMap index valid idValue idMask basePage limitPage filter account
      let inRange : Prop := index.toNat ≤ 23 ∧ valid.toNat ≤ 1 ∧ idValue.toNat ≤ 63 ∧ idMask.toNat ≤ 63 ∧
        basePage.toNat ≤ 1048575 ∧ limitPage.toNat ≤ 1048575 ∧ filter.toNat ≤ 2 ∧ account.toNat ≤ 15
      (¬inRange → exec i s = .next (answering .range [] s)) ∧
      (inRange → s.store.commitPending = true → exec i s = .next (answering .pending [] s)) ∧
      (inRange → s.store.commitPending = false → ∀ (n : Fin 24) (a : AccountIndex) (f : DirectionFilter),
        index.toNat = n.val → account.toNat = a.val → filterByte f = filter →
        exec i s = .next (answering .done []
          { s with store := { s.store with staged := { s.store.staged with
            map := s.store.staged.map.set n.val
              { valid := decide (valid = 1), idValue := idValue.setWidth 6, idMask := idMask.setWidth 6,
                basePage := basePage.setWidth 20, limitPage := limitPage.setWidth 20, filter := f,
                account := a } } } }))) ∧
  (∀ (prescale sliceLength : BitVec 16) (unmapped : Byte) (s : State), SelectedListening s →
      let i := Instr.writeGlobals prescale sliceLength unmapped
      let inRange : Prop := 1 ≤ sliceLength.toNat ∧ sliceLength.toNat ≤ 4096 ∧ (unmapped.toNat ≤ 15 ∨ unmapped = 0xFF)
      (¬inRange → exec i s = .next (answering .range [] s)) ∧
      (inRange → s.store.commitPending = true → exec i s = .next (answering .pending [] s)) ∧
      (inRange → s.store.commitPending = false → ∀ u : UnmappedAction, unmappedByte u = unmapped →
        exec i s = .next (answering .done []
          { s with store := { s.store with staged := { s.store.staged with
            prescale := prescale.toNat, sliceLength := sliceLength.toNat, unmapped := u } } })))

/-- COMMIT at a SELECTED station: PENDING while a commit is pending; else the staged accounts in index order, then the
staged map entries in index order, are validated, and the answer is INVALID with the kind, index and reason of the first
that fails, or ACCEPTED with commit pending set (R123, R178). COPY_LIVE_TO_STAGED overwrites the whole staged copy, or is refused PENDING
(R121); CANCEL_COMMIT clears commit pending and is answered DONE in either case (R125). -/
def Obligations.CommitCopyAndCancel : Prop :=
  ∀ s : State, SelectedListening s →
    let c := s.store.staged
    let badAccount : AccountIndex → Prop := fun a =>
      (c.accounts[a].mode = .hold ∨ c.accounts[a].mode = .refuse) ∧
        c.accounts[a].ceiling < 16 * c.accounts[a].weight
    let badEntry : Fin 24 → Prop := fun i => c.map[i].valid = true ∧ c.map[i].limitPage < c.map[i].basePage
    (s.store.commitPending = true → exec .commit s = .next (answering .pending [] s)) ∧
    (s.store.commitPending = false →
      (∀ a : AccountIndex, badAccount a → (∀ b : AccountIndex, b < a → ¬badAccount b) →
        exec .commit s = .next (answering .invalid [0, BitVec.ofNat 8 a.val, 1] s)) ∧
      (∀ i : Fin 24, (∀ b : AccountIndex, ¬badAccount b) → badEntry i → (∀ j : Fin 24, j < i → ¬badEntry j) →
        exec .commit s = .next (answering .invalid [1, BitVec.ofNat 8 i.val, 2] s)) ∧
      ((∀ b : AccountIndex, ¬badAccount b) → (∀ j : Fin 24, ¬badEntry j) →
        exec .commit s = .next
          (answering .accepted [] { s with store := { s.store with commitPending := true } }))) ∧
    (s.store.commitPending = true → exec .copyLiveToStaged s = .next (answering .pending [] s)) ∧
    (s.store.commitPending = false → exec .copyLiveToStaged s = .next
      (answering .done [] { s with store := { s.store with staged := s.store.live } })) ∧
    exec .cancelCommit s = .next (answering .done [] { s with store := { s.store with commitPending := false } })

/-- The live configuration changes only when a pending commit is published, which copies the staged copy, clears commit
pending and sets COMMIT_DONE at an event that begins slice 0, and at power-on reset (R126). In the REFCLK cycle of an empty
queue a COMMIT that ends on MDI comes before the boundary of the same cycle (log 3). -/
def Obligations.LiveConfigurationChangesOnlyByPublication : Prop :=
  ∀ s t : State, step s = .next t →
    t.store.live = s.store.live ∨
    ((s.store.commitPending = true ∨ (s.pending = [] ∧ firstFault s.store.staged = none)) ∧
      t.store = { staged := s.store.staged, live := s.store.staged, commitPending := false } ∧
      t.alert.causes &&& 0x02 = 0x02 ∧ t.time.cycle = 0 ∧ t.time.tick = 0 ∧ t.time.slice = 0) ∨
    (∃ (src : ResetSource) (rest : List Instr), s.pending = .powerOnReset (.asserts src) :: rest ∧
      t.store = { staged := .powerOn, live := .powerOn, commitPending := false })

/-! ### Reports -/

/-- IDENTIFY at a SELECTED station (R172, R188). -/
def Obligations.IdentifyReportsTheIdentityBlock : Prop :=
  ∀ s : State, SelectedListening s → exec .identify s = .next (answering .done
    (twoBytes 0x0A37 ++ twoBytes 0x0160 ++ [0x01, s.power.station.setWidth 8, 16, 24, 24, 16, 8]) s)

/-- STATUS at a SELECTED station: the report of R189, read before a clear; "clear" sets the four global counters to 0 and
nothing else (R173, R174, R189). -/
def Obligations.StatusReportsAndClears : Prop :=
  ∀ s : State, SelectedListening s →
    let flags : Byte := (if s.reg.mode = .enforce then 0x01 else 0) ||| (if s.reg.regenHigh = true then 0x02 else 0) |||
      (if s.reg.mode = .enforce ∧ s.reg.regenHigh = true then 0x04 else 0) |||
      (if s.store.commitPending = true then 0x08 else 0)
    let report : List Byte := [flags] ++ twoBytes s.time.period ++
      [BitVec.ofNat 8 s.time.slice, BitVec.ofNat 8 (heldRecords s.pool).length,
        BitVec.ofNat 8 (refusingRecords s.pool).length, BitVec.ofNat 8 s.outstanding.length,
        BitVec.ofNat 8 s.capture.records.length, BitVec.ofNat 8 s.capture.lost, s.alert.causes.setWidth 8,
        s.alert.enables.setWidth 8] ++
      twoBytes s.memPort.strays ++ [BitVec.ofNat 8 s.link.errors] ++ twoBytes s.hostPort.slotWaits ++
      twoBytes s.hostPort.tagWaits
    exec .statusKeep s = .next (answering .done report s) ∧
    exec .statusClear s = .next (answering .done report { s with
      memPort := { s.memPort with strays := 0 }
      link := { s.link with errors := 0 }
      hostPort := { s.hostPort with slotWaits := 0, tagWaits := 0 } })

/-- READ_ACCOUNT, READ_MAP and READ_GLOBALS at a SELECTED station: RANGE for a bad index or copy; else the parameters of the
account in the copy named, and for LIVE its running state; the entry of the copy named; the staged globals block, then the live
one (R175, R177, R190, R191, R192, R20, R33, R122). -/
def Obligations.ConfigurationReadsReportTheCopyNamed : Prop :=
  (∀ (index copy : Byte) (s : State), SelectedListening s →
      (¬(index.toNat ≤ 15 ∧ copy.toNat ≤ 1) → exec (.readAccount index copy) s = .next (answering .range [] s)) ∧
      (∀ a : AccountIndex, index.toNat = a.val →
        (copy = 0 → exec (.readAccount index copy) s = .next (answering .done
          ([index, 0] ++ accountBytes s.store.staged.accounts[a]) s)) ∧
        (copy = 1 → exec (.readAccount index copy) s = .next (answering .done
          ([index, 1] ++ accountBytes s.store.live.accounts[a] ++ twoBytes (accountOf s a).balance ++
            [BitVec.ofNat 8 (accountOf s a).outstanding, BitVec.ofNat 8 (accountOf s a).held]) s)))) ∧
  (∀ (index copy : Byte) (s : State), SelectedListening s →
      (¬(index.toNat ≤ 23 ∧ copy.toNat ≤ 1) → exec (.readMap index copy) s = .next (answering .range [] s)) ∧
      (∀ i : Fin 24, index.toNat = i.val →
        (copy = 0 → exec (.readMap index copy) s = .next (answering .done
          ([index, 0] ++ mapBytes s.store.staged.map[i]) s)) ∧
        (copy = 1 → exec (.readMap index copy) s = .next (answering .done
          ([index, 1] ++ mapBytes s.store.live.map[i]) s))) ∧
      exec .readGlobals s = .next (answering .done (globalsBytes s.store.staged ++ globalsBytes s.store.live) s))

/-- READ_COUNTERS at a SELECTED station: the nine counters of one account in one snapshot; "clear" sets them to 0 at the same
event and changes nothing else (R179, R18, R193). -/
def Obligations.ReadCountersReportsAndClears : Prop :=
  ∀ (index : Byte) (s : State), SelectedListening s →
    (16 ≤ index.toNat → exec (.readCountersKeep index) s = .next (answering .range [] s) ∧
      exec (.readCountersClear index) s = .next (answering .range [] s)) ∧
    (∀ a : AccountIndex, index.toNat = a.val →
      let k := (accountOf s a).counters
      let report : List Byte := [index] ++ fourBytes k.issuedRequests ++ fourBytes k.issuedBeats ++
        fourBytes k.holds ++ fourBytes k.creditRefusals ++ fourBytes k.expiries ++ fourBytes k.flushRefusals ++
        fourBytes k.overdrawCredits ++ [BitVec.ofNat 8 k.peakHeld, BitVec.ofNat 8 k.peakWait]
      exec (.readCountersKeep index) s = .next (answering .done report s) ∧
      exec (.readCountersClear index) s = .next (answering .done report
        { s with accounts := s.accounts.set a.val { accountOf s a with
          counters :=
            { issuedRequests := 0, issuedBeats := 0, holds := 0, creditRefusals := 0, expiries := 0
              flushRefusals := 0, overdrawCredits := 0, peakHeld := 0, peakWait := 0 } } }))

/-- READ_HOLD at a SELECTED station: the slot as it stands, in the layout of its state (R180, R99, R194). -/
def Obligations.ReadHoldReportsTheSlot : Prop :=
  ∀ (slot : Byte) (s : State), SelectedListening s →
    (24 ≤ slot.toNat → exec (.readHold slot) s = .next (answering .range [] s)) ∧
    (∀ i : SlotIndex, slot.toNat = i.val →
      ((∀ e ∈ s.pool, e.slot ≠ i) → exec (.readHold slot) s = .next (answering .done [slot, 0x00] s)) ∧
      (∀ (front back : List PoolEntry) (f : RefusingRecord), SlotsDistinct s →
        s.pool = front ++ ⟨i, .refusing f⟩ :: back →
        exec (.readHold slot) s = .next (answering .done
          [slot, 0x02, f.id.setWidth 8, f.tag, directionByte f.dir, causeByte f.cause, accountByte f.account,
            BitVec.ofNat 8 front.length] s)) ∧
      (∀ (front back : List PoolEntry) (h : HeldRecord), SlotsDistinct s →
        s.pool = front ++ ⟨i, .held h⟩ :: back →
        exec (.readHold slot) s = .next (answering .done
          ([slot, 0x01, BitVec.ofNat 8 h.account.val, h.req.id.setWidth 8, h.req.tag, directionByte h.req.dir] ++
            fourBytes h.req.addr.toNat ++
            [BitVec.ofNat 8 h.req.len, BitVec.ofNat 8 h.wait, if h.exempt = true then 0x01 else 0x00,
              blockerByte h.blocker, BitVec.ofNat 8 front.length]) s)))

/-- READ_CAPTURE at a SELECTED station removes the oldest record and reports it with the records remaining and the lost
count, and changes nothing on an empty ring; CLEAR_CAPTURE empties the ring and the lost count and keeps the sequence count
(R146, R148, R182, R195). -/
def Obligations.CaptureRingIsReadAndCleared : Prop :=
  ∀ s : State, SelectedListening s →
    (s.capture.records = [] →
      exec .readCapture s = .next (answering .done [0, BitVec.ofNat 8 s.capture.lost] s)) ∧
    (∀ (r : CaptureRecord) (rest : List CaptureRecord), s.capture.records = r :: rest →
      exec .readCapture s = .next (answering .done
        ([BitVec.ofNat 8 rest.length, BitVec.ofNat 8 s.capture.lost] ++ twoBytes r.seq ++
          [causeByte r.cause, accountByte r.account, r.id.setWidth 8, r.tag, directionByte r.dir] ++
          fourBytes r.addr.toNat ++ [BitVec.ofNat 8 r.len] ++ twoBytes r.period ++ [BitVec.ofNat 8 r.slice])
        { s with capture := { s.capture with records := rest } })) ∧
    exec .clearCapture s = .next
      (answering .done [] { s with capture := { s.capture with records := [], lost := 0 } })

/-! ### Mode, alerts, flush, unknown commands -/

/-- SET_MODE at a SELECTED station: the global mode takes the mode named at once; the grid, the configuration, the balances
and the slots stay; any other value is refused with RANGE (R134, R183). -/
def Obligations.SetModeTakesEffectAtOnce : Prop :=
  ∀ (mode : Byte) (s : State), SelectedListening s →
    (2 ≤ mode.toNat → exec (.setMode mode) s = .next (answering .range [] s)) ∧
    (mode.toNat ≤ 1 → ∃ t, exec (.setMode mode) s = .next (answering .done [] t) ∧
      t.reg = { s.reg with mode := if mode = 1 then .enforce else .pass } ∧
      (∀ a : AccountIndex, (accountOf t a).balance = (accountOf s a).balance ∧
        (accountOf t a).outstanding = (accountOf s a).outstanding) ∧
      (s.hostPort.head = none → poolSlots t = poolSlots s) ∧
      (s.hostPort.head = none → mode = 0 → t = { s with reg := t.reg, pool := t.pool } ∧
        ∀ h ∈ heldRecords t.pool, h.blocker ≠ .cap ∧ h.blocker ≠ .credit) ∧
      t = { s with
        reg := t.reg, accounts := t.accounts, pool := t.pool, capture := t.capture, alert := t.alert,
        hostPort := { t.hostPort with sent := s.hostPort.sent } })

/-- ACK_ALERT clears the causes named and SET_ALERT_ENABLE sets the enables to the causes named, by bits 0 to 5 of the mask;
both are answered DONE; ALERTn is driven low while a cause is both set and enabled and the supply holds (R151, R152, R184,
R185). -/
def Obligations.AlertCommandsActOnTheMaskedCauses : Prop :=
  (∀ s : State, alertnDriven s = true ↔ s.power.supplyLow = false ∧
    ∃ k : Fin 6, s.alert.causes.getLsbD k = true ∧ s.alert.enables.getLsbD k = true) ∧
  ∀ (mask : Byte) (s : State), SelectedListening s →
    (∃ t, exec (.ackAlert mask) s = .next (answering .done [] t) ∧
      (∀ k : Fin 6, t.alert.causes.getLsbD k = (s.alert.causes.getLsbD k && !mask.getLsbD k)) ∧
      t = { s with alert := { s.alert with causes := t.alert.causes } }) ∧
    (∃ t, exec (.setAlertEnable mask) s = .next (answering .done [] t) ∧
      (∀ k : Fin 6, t.alert.enables.getLsbD k = mask.getLsbD k) ∧
      t = { s with alert := { s.alert with enables := t.alert.enables } })

/-- FLUSH with action RELEASE at a SELECTED station: every HELD record of the account named, or of every account, becomes
exempt and is counted in the answer; no record leaves HELD, and no balance, counter or held count changes; a selector that
names nothing is refused with RANGE (R88, R89, R181). Stated over a settled pool with no head offered. -/
def Obligations.FlushReleaseExemptsTheConcerned : Prop :=
  ∀ (selector : Byte) (s : State), SelectedListening s →
    (¬(selector.toNat ≤ 15 ∨ selector = 0xFF) →
      exec (.flushRelease selector) s = .next (answering .range [] s)) ∧
    (selector.toNat ≤ 15 ∨ selector = 0xFF → PoolSettled s → s.hostPort.head = none →
      ∃ t, exec (.flushRelease selector) s = .next (answering .done
          [BitVec.ofNat 8 ((heldRecords s.pool).filter (flushNames selector)).length] t) ∧
        t = { s with pool := t.pool } ∧ poolSlots t = poolSlots s ∧
        refusingRecords t.pool = refusingRecords s.pool ∧
        (heldRecords t.pool).map heldFields =
          (heldRecords s.pool).map fun h => (h.req, h.account, h.wait, h.exempt || flushNames selector h))

/-- FLUSH with action REFUSE at a SELECTED station: every concerned record becomes REFUSING with cause FLUSHED in its slot and
is counted in the answer; flush refusals increase and held counts decrease by the records of each account; nothing is charged
(R88, R90, R82, R181). One capture record is made for each record refused, in pool order, oldest first, for those flushed and
those the re-evaluation refuses for credit alike, and CAPTURED is set (R82, R90, R145). Stated with no head offered and the counts of the ring in range. -/
def Obligations.FlushRefuseRefusesTheConcerned : Prop :=
  ∀ (selector : Byte) (s : State), SelectedListening s →
    (¬(selector.toNat ≤ 15 ∨ selector = 0xFF) →
      exec (.flushRefuse selector) s = .next (answering .range [] s)) ∧
    (selector.toNat ≤ 15 ∨ selector = 0xFF → s.hostPort.head = none → RingInRange s →
      ∃ t, exec (.flushRefuse selector) s = .next (answering .done
          [BitVec.ofNat 8 ((heldRecords s.pool).filter (flushNames selector)).length] t) ∧
        poolSlots t = poolSlots s ∧
        (∀ (i : SlotIndex) (h : HeldRecord), (⟨i, .held h⟩ : PoolEntry) ∈ s.pool → flushNames selector h = true →
          (⟨i, .refusing
            { id := h.req.id, tag := h.req.tag, dir := h.req.dir, cause := .flushed, account := some h.account }⟩
            : PoolEntry) ∈ t.pool) ∧
        (∀ h ∈ heldRecords t.pool, flushNames selector h = false) ∧
        (∀ a : AccountIndex,
          let n := ((heldRecords s.pool).filter fun h => flushNames selector h && h.account == a).length
          (accountOf t a).balance = (accountOf s a).balance ∧
          (accountOf t a).outstanding = (accountOf s a).outstanding ∧
          (0 < n → (accountOf t a).held = (accountOf s a).held - n ∧
            (accountOf t a).counters.flushRefusals =
              min ((accountOf s a).counters.flushRefusals + n) 4294967295) ∧
          (n = 0 → (accountOf t a).counters.flushRefusals = (accountOf s a).counters.flushRefusals)) ∧
        t.capture = (s.pool.zip t.pool).foldl (captureAt s.time.period s.time.slice) s.capture ∧
        t.capture.seq = (s.capture.seq +
          ((refusingRecords t.pool).length - (refusingRecords s.pool).length)) % 65536 ∧
        (((heldRecords s.pool).filter (flushNames selector)) ≠ [] → t.alert.causes = s.alert.causes ||| 0x01) ∧
        t = { s with pool := t.pool, accounts := t.accounts, capture := t.capture, alert := t.alert })

/-- The Command Executor makes its four checks in order; the first that fails gives the status and nothing changes (R170); a
frame whose code names no command of R171 is answered UNKNOWN_COMMAND. -/
def Obligations.ExecutorRefusalsChangeNothing : Prop :=
  (∀ (code : Byte) (payload : List Byte) (s : State), SelectedListening s → payload.length ≤ 48 →
    code ∉ ([0x01, 0x02, 0x10, 0x11, 0x12, 0x13, 0x14, 0x15, 0x16, 0x18, 0x19, 0x20, 0x21, 0x28, 0x30, 0x31, 0x38,
      0x39, 0x3A] : List Byte) →
    exec (.unknownCommand code payload) s = .next (answering .unknownCommand [] s)) ∧
  (∀ (c : Command) (payload : List Byte) (s : State),
    (payload.length ≠ c.payloadLength → execute c.code payload s = (s, { status := .badPayload, payload := [] })) ∧
    (payload.length = c.payloadLength → payloadInRange c payload = false →
      execute c.code payload s = (s, { status := .range, payload := [] })) ∧
    (payload.length = c.payloadLength → payloadInRange c payload = true → c.refusedWhilePending = true →
      s.store.commitPending = true → execute c.code payload s = (s, { status := .pending, payload := [] })))

/-! ### The link -/

/-- SELECT_CHARACTER in every link state (R158): the station's own number selects it, 1Fh selects every station by broadcast,
every other value deselects; whatever is in progress is abandoned and nothing is counted. And the bits of a character on MDI
(R156): start, data least significant first, mark and stop, each one bit time of REFCLK cycles on an empty queue (log 3,
log 18), are received at the end of the stop bit, as a select value with mark 1 and as a data byte with mark 0 (R158, R160). -/
def Obligations.SelectCharacterMovesTheStation : Prop :=
  (∀ (value : Byte) (s : State), Listening s →
    (value.toNat = 31 → exec (.selectCharacter value) s = .next (withLinkState .broadcast s)) ∧
    (value.toNat ≠ 31 → value.toNat = s.power.station.toNat →
      exec (.selectCharacter value) s = .next (withLinkState .selected s)) ∧
    (value.toNat ≠ 31 → value.toNat ≠ s.power.station.toNat →
      exec (.selectCharacter value) s = .next (withLinkState .unselected s))) ∧
  ∀ (value : Byte) (mark : Bool) (rest : List Bool) (s : State), Listening s → s.pending = [] →
    let bit := [16, 64, 256, 1024].getD s.power.rate.toNat 0
    s.link.receiver = .ready → s.link.lowFor = 0 → s.mdi = characterLevels bit value mark ++ rest →
    (s.link.state = .unselected ∨ s.link.state = .selected ∨ s.link.state = .broadcast) →
    ∃ t, stepsTo (11 * bit) s t ∧ t.mdi = rest ∧
      (mark = true → t.link.state = if value.toNat = 31 then .broadcast
        else if value.toNat = s.power.station.toNat then .selected else .unselected) ∧
      (mark = false →
        let frame : Frame := { code := value, length := none, payload := [], sum := value }
        (s.link.state = .unselected → t.link.state = .unselected) ∧
        (s.link.state = .selected → t.link.state = .receiving frame) ∧
        (s.link.state = .broadcast → t.link.state = .broadcastReceiving frame))

/-- DATA_CHARACTER by link state, with the frame it builds and its completion (R160 to R163, R166). -/
def Obligations.DataCharacterByLinkState : Prop :=
  ∀ (b : Byte) (s : State), Listening s →
    (s.link.state = .unselected → exec (.dataCharacter b) s = .next s) ∧
    (s.link.state = .selected → exec (.dataCharacter b) s = .next
      (withLinkState (.receiving { code := b, length := none, payload := [], sum := b }) s)) ∧
    (s.link.state = .broadcast → exec (.dataCharacter b) s = .next
      (withLinkState (.broadcastReceiving { code := b, length := none, payload := [], sum := b }) s)) ∧
    (∀ note : Bool, s.link.state = .discarding note → exec (.dataCharacter b) s = .next
      { s with link := { s.link with gapTimer := 0 } }) ∧
    (∀ r : Response, s.link.state = .responding r → exec (.dataCharacter b) s = .next (withLinkError s)) ∧
    (∀ (f : Frame) (wide : Bool),
      s.link.state = (if wide = true then .broadcastReceiving f else .receiving f) →
      let go : Frame → LinkState := fun g => if wide = true then .broadcastReceiving g else .receiving g
      (f.length = none → b.toNat ≤ 48 → exec (.dataCharacter b) s = .next
        (withLinkState (go { f with length := some b.toNat, sum := f.sum + b }) s)) ∧
      (f.length = none → 48 < b.toNat → exec (.dataCharacter b) s = .next
        (withLinkState (.discarding wide) (withLinkError s))) ∧
      (∀ n : Nat, f.length = some n →
        (f.payload.length < n → exec (.dataCharacter b) s = .next
          (withLinkState (go { f with payload := f.payload ++ [b], sum := f.sum + b }) s)) ∧
        (n ≤ f.payload.length → f.sum + b ≠ 0 → exec (.dataCharacter b) s = .next
          (if wide = true then withLinkState .broadcast (withLinkError s)
            else answering .checkFail [] (withLinkError s))) ∧
        (n ≤ f.payload.length → f.sum + b = 0 → wide = false → exec (.dataCharacter b) s = .next
          (answering (execute f.code f.payload s).2.status (execute f.code f.payload s).2.payload
            (execute f.code f.payload s).1)) ∧
        (n ≤ f.payload.length → f.sum + b = 0 → wide = true → exec (.dataCharacter b) s = .next
          (withLinkState .broadcast (if f.code ∈
              ([0x11, 0x13, 0x15, 0x16, 0x18, 0x19, 0x28, 0x31, 0x38, 0x39, 0x3A] : List Byte)
            then (execute f.code f.payload s).1 else withLinkError s)))))

/-- FRAMING_ERROR and FRAME_TIMEOUT by link state; there is no timeout once a start bit has begun (R164). BREAK: UNSELECTED in
every link state, the frame and the response lost, MDO released, nothing counted; and no character is taken until END_OF_BREAK
(R157); that the wait takes no framing error and no second break either is log 19. On an empty queue (log 3), with the levels
of MDI as log 18 has them: the gap timer of every frame counts REFCLK cycles, the timeout comes when 3 character times have
passed, and a start bit that begins exactly then is in time (R164); a rise settles a stop bit of 0 as a framing error (R156);
a low of 2 character times is a break (R157). -/
def Obligations.FramingErrorTimeoutAndBreak : Prop :=
  (∀ s : State, Listening s →
      (s.link.state = .unselected → exec .framingError s = .next s) ∧
      (s.link.state = .selected ∨ s.link.state = .broadcast ∨ (∃ r : Response, s.link.state = .responding r) →
        exec .framingError s = .next (withLinkError s)) ∧
      (∀ f : Frame, s.link.state = .receiving f →
        exec .framingError s = .next (withLinkState .selected (withLinkError s))) ∧
      (∀ f : Frame, s.link.state = .broadcastReceiving f →
        exec .framingError s = .next (withLinkState .broadcast (withLinkError s))) ∧
      (∀ wide : Bool, s.link.state = .discarding wide →
        exec .framingError s = .next
          (withLinkState (if wide = true then .broadcast else .selected) (withLinkError s)))) ∧
  (∀ s : State, Listening s →
      (startBitBegun s.link.receiver = true → exec .frameTimeout s = .next s) ∧
      (startBitBegun s.link.receiver = false →
        (s.link.state = .unselected ∨ s.link.state = .selected ∨ s.link.state = .broadcast ∨
          (∃ r : Response, s.link.state = .responding r) → exec .frameTimeout s = .next s) ∧
        (∀ f : Frame, s.link.state = .receiving f →
          exec .frameTimeout s = .next (withLinkState .selected (withLinkError s))) ∧
        (∀ f : Frame, s.link.state = .broadcastReceiving f →
          exec .frameTimeout s = .next (withLinkState .broadcast (withLinkError s))) ∧
        (∀ wide : Bool, s.link.state = .discarding wide →
          exec .frameTimeout s = .next (withLinkState (if wide = true then .broadcast else .selected) s)))) ∧
  (∀ s : State,
      (Listening s → exec .linkBreak s = .next
        { s with link := { s.link with
          state := .unselected, gapTimer := 0, mdo := none, inBreak := true, receiver := .waitHigh, lowFor := 0 } }) ∧
      (Running s → exec .endOfBreak s = .next { s with link := { s.link with inBreak := false } }) ∧
      (∀ (b : Byte), s.link.inBreak = true →
        exec .linkBreak s = .next s ∧ exec (.selectCharacter b) s = .next s ∧ exec (.dataCharacter b) s = .next s ∧
        exec .framingError s = .next s ∧ exec .frameTimeout s = .next s)) ∧
  (∀ s t : State, Listening s → s.pending = [] → step s = .next t →
      let bit := [16, 64, 256, 1024].getD s.power.rate.toNat 0
      let gap := 3 * (11 * bit)
      let inFrame : Prop := (∃ f, s.link.state = .receiving f) ∨ (∃ f, s.link.state = .broadcastReceiving f) ∨
        ∃ wide, s.link.state = .discarding wide
      (LineQuiet s → inFrame → s.link.gapTimer + 1 < gap →
        t.link.state = s.link.state ∧ t.link.gapTimer = s.link.gapTimer + 1) ∧
      (LineQuiet s → gap ≤ s.link.gapTimer + 1 →
        (∀ f, s.link.state = .receiving f → t.link.state = .selected ∧ t.link.errors = min (s.link.errors + 1) 255) ∧
        (∀ f, s.link.state = .broadcastReceiving f →
          t.link.state = .broadcast ∧ t.link.errors = min (s.link.errors + 1) 255) ∧
        (∀ wide, s.link.state = .discarding wide →
          t.link.state = (if wide = true then .broadcast else .selected) ∧ t.link.errors = s.link.errors)) ∧
      (∀ rest : List Bool, s.mdi = true :: false :: rest → s.link.receiver = .ready → inFrame →
        s.link.gapTimer + 1 = gap → t.link.state = s.link.state ∧ t.link.receiver = .character 0 []) ∧
      (s.mdi = [] → s.link.receiver = .unsettled → s.link.state = .selected →
        t.link.state = .selected ∧ t.link.errors = min (s.link.errors + 1) 255 ∧ t.link.receiver = .ready) ∧
      (∀ rest : List Bool, s.mdi = false :: rest → s.link.lowFor + 1 = 2 * (11 * bit) →
        t.link.state = .unselected ∧ t.link.mdo = none))

/-- The response: RESPONSE_TURNAROUND begins its first character on MDO, the status byte, one character time after the frame;
each character lasts one character time and the next begins at its end; at the end of the check byte the station releases MDO
and is SELECTED; the frame is status, length, payload and a check byte that makes the sum 0 (R165, R155). The character times
are those of the model's REFCLK cycles on an empty queue (log 3), with MDI at rest. Not from R165 but the model's choice: that
RESPONSE_END ends a response that has begun at any of its characters (log 4), and that RESPONSE_END before the response has
begun and RESPONSE_TURNAROUND after it has change nothing (log 2). -/
def Obligations.ResponseIsSentAndEnds : Prop :=
  ∀ (r : Response) (s : State), ClockRunning s → s.link.state = .responding r →
    (r.begun = false → r.sent = 0 →
      exec .responseTurnaround s = .next
        { s with link := { s.link with
          state := .responding { r with begun := true }
          mdo := some { byte := statusByte r.status, elapsed := 0 } } } ∧
      exec .responseEnd s = .next s) ∧
    (r.begun = true →
      exec .responseEnd s = .next { s with link := { s.link with state := .selected, gapTimer := 0, mdo := none } } ∧
      exec .responseTurnaround s = .next s) ∧
    (∀ t : State, s.pending = [] → LineQuiet s → step s = .next t →
      let time := 11 * [16, 64, 256, 1024].getD s.power.rate.toNat 0
      (r.begun = false →
        (r.turnaround + 1 < time → t.link.state = .responding { r with turnaround := r.turnaround + 1 }) ∧
        (r.turnaround + 1 = time → t.link.state = .responding { r with begun := true } ∧
          (r.sent = 0 → t.link.mdo = some { byte := statusByte r.status, elapsed := 0 }))) ∧
      (∀ c : MdoCharacter, r.begun = true → s.link.mdo = some c →
        (c.elapsed + 1 < time → t.link.state = .responding r ∧
          t.link.mdo = some { c with elapsed := c.elapsed + 1 }) ∧
        (∀ b : Byte, c.elapsed + 1 = time → (responseFrame r)[r.sent + 1]? = some b →
          t.link.state = .responding { r with sent := r.sent + 1 } ∧ t.link.mdo = some { byte := b, elapsed := 0 }) ∧
        (c.elapsed + 1 = time → r.sent + 1 = (responseFrame r).length →
          t.link.state = .selected ∧ t.link.mdo = none))) ∧
    (r.payload.length ≤ 48 →
      (responseFrame r).take (r.payload.length + 2) =
        statusByte r.status :: BitVec.ofNat 8 r.payload.length :: r.payload ∧
      (responseFrame r).length = r.payload.length + 3 ∧ (responseFrame r).sum = 0)

/-- Every management row at a station that is not SELECTED: at one selected by broadcast a write-type row acts as at a
SELECTED one and no response is sent, a read-type row is not executed and counts a link error (R163); an UNSELECTED station
ignores it (R160). A row is its whole checked frame (log 5). -/
def Obligations.BroadcastExecutesWriteTypeOnly : Prop :=
  ∀ (i : Instr) (s : State),
    (BroadcastListening s → isReadRow i = true → exec i s = .next (withLinkState .broadcast (withLinkError s))) ∧
    (BroadcastListening s → isWriteRow i = true → ∃ (st : Status) (p : List Byte) (t : State),
      exec i { s with link := { s.link with state := .selected } } = .next (answering st p t) ∧
      exec i s = .next (withLinkState .broadcast t)) ∧
    (s.link.state = .unselected → (isReadRow i || isWriteRow i) = true → exec i s = .next s)

/-! ### Invariants and whole-machine rules -/

/-- Every account's balance lies between 0 and its live ceiling (R5). -/
def Obligations.BalancesStayWithinCeilings : Prop :=
  ∀ s t : State, BalancesBounded s → step s = .next t → BalancesBounded t

/-- A slot holds at most one record, and every held count is the number of HELD records of its account (R74, R14). -/
def Obligations.HeldCountsStayTrue : Prop :=
  ∀ s t : State, SlotsDistinct s ∧ HeldCountsAgree s → step s = .next t → SlotsDistinct t ∧ HeldCountsAgree t

/-- No two records carry the same pair, every outstanding count is the number of entries of its account, the table holds at
most 16 entries, and a waiting memory response is matched (R56, R105, R106, R13, R107). -/
def Obligations.OutstandingTableStaysTrue : Prop :=
  ∀ s t : State,
    SlotsDistinct s ∧ PairsDistinct s ∧ OutstandingCountsAgree s ∧ OutstandingBounded s ∧ WaitingResponseMatched s →
    step s = .next t →
    SlotsDistinct t ∧ PairsDistinct t ∧ OutstandingCountsAgree t ∧ OutstandingBounded t ∧ WaitingResponseMatched t

/-- The blocker field of every HELD record holds the result of the admission test against the state as it stands, and no
HELD record is one that a credit refusal would take (R79, R80, R83). -/
def Obligations.PoolStaysSettled : Prop :=
  ∀ s t : State, SlotsDistinct s ∧ EmptyBeforeRunning s ∧ PoolSettled s → step s = .next t →
    SlotsDistinct t ∧ EmptyBeforeRunning t ∧ PoolSettled t

/-- A head that could be taken into a slot does not stay on the channel, and a tag wait or a slot wait it is in has been
counted (R57, R67, R68, R69). -/
def Obligations.HeadStaysJudged : Prop :=
  ∀ s t : State, HeadJudged s → step s = .next t → HeadJudged t

/-- The live configuration passes validation, and so does the staged one while its commit is pending (R123, R124); both copies
and the four counts of the Time Base stay in their ranges (R34, R38, R120). While a source asserts a power-on reset the part does
not initialise or run (R138). A tick is discarded after a restart only where it waits directly behind it (R47, log 6). -/
def Obligations.ConfigurationAndGridStaySound : Prop :=
  ∀ s t : State, StoreSound s ∧ StoreInRange s ∧ GridInRange s ∧ ResetSourcesAgree s ∧ discardSound s = true → step s = .next t →
    StoreSound t ∧ StoreInRange t ∧ GridInRange t ∧ ResetSourcesAgree t ∧ discardSound t = true

/-- The Capture Ring holds at most 8 records with consecutive sequence numbers, and its counts, the global counters and the
nine counters of the accounts stay in their ranges (R143, R145, R72, R116, R167, R15, R179): the seven event counters, peak held
up to 24 and peak wait up to 255. -/
def Obligations.RingAndCountersStayInRange : Prop :=
  ∀ s t : State, SlotsDistinct s → HeldCountsAgree s →
    RingInRange s ∧ RingConsecutive s ∧ GlobalCountersInRange s ∧ AccountCountersInRange s → step s = .next t →
    RingInRange t ∧ RingConsecutive t ∧ GlobalCountersInRange t ∧ AccountCountersInRange t

/-- A frame being received keeps the sum of its bytes and fits its length, and no response is longer than a frame carries
(R161, R165, R171). The receiver on MDI holds as many bits of a character as have been sampled, and waits for no low longer than
a break (R156, R157). -/
def Obligations.LinkFramesStaySound : Prop :=
  ∀ s t : State, step s = .next t →
    (linkSound s = true → linkSound t = true) ∧ (receiverSound s = true → receiverSound t = true)

/-- A set alert cause stays set until ACK_ALERT or a power-on reset, and the enables change only by SET_ALERT_ENABLE or a
power-on reset (R150, R152, R153): no other command clears a cause, no other one changes the enables. The two commands reach the
part as frames on MDI: a DATA_CHARACTER that is a byte of such a frame is left out, and so is a whole frame sent into a frame
that has begun, which ends as that frame does (log 5). -/
def Obligations.AlertCausesStaySet : Prop :=
  ∀ (i : Instr) (s t : State), exec i s = .next t →
    (∀ src, i ≠ .powerOnReset (.asserts src)) →
    (∀ code p, i = .unknownCommand code p → i.wellFormed = true) →
    (∀ f : Frame, s.link.state = .receiving f ∨ s.link.state = .broadcastReceiving f →
      (isWriteRow i || isReadRow i) = false ∧ (∀ code p, i ≠ .unknownCommand code p) ∧
      ((∃ b, i = .dataCharacter b) → f.code ≠ 0x39 ∧ f.code ≠ 0x3A)) →
    ((∀ mask, i ≠ .ackAlert mask) → s.alert.causes &&& t.alert.causes = s.alert.causes) ∧
    ((∀ mask, i ≠ .setAlertEnable mask) → t.alert.enables = s.alert.enables)

end
end

