-- ==== Sys2Proof/Laws/State.lean ====
section
/-! SUPPORT. What each shared update of the state leaves in every field: one lemma per field per update, true by
unfolding, so that later proofs need not unfold a record update. -/

namespace Sys2Proof.Machine

variable (s : State)

@[simp] theorem setCause_power (c : AlertCause) : (setCause c s).power = s.power := by cases s; rfl
@[simp] theorem setCause_reg (c : AlertCause) : (setCause c s).reg = s.reg := by cases s; rfl
@[simp] theorem setCause_hostPort (c : AlertCause) : (setCause c s).hostPort = s.hostPort := by cases s; rfl
@[simp] theorem setCause_memPort (c : AlertCause) : (setCause c s).memPort = s.memPort := by cases s; rfl
@[simp] theorem setCause_accounts (c : AlertCause) : (setCause c s).accounts = s.accounts := by cases s; rfl
@[simp] theorem setCause_time (c : AlertCause) : (setCause c s).time = s.time := by cases s; rfl
@[simp] theorem setCause_pool (c : AlertCause) : (setCause c s).pool = s.pool := by cases s; rfl
@[simp] theorem setCause_outstanding (c : AlertCause) : (setCause c s).outstanding = s.outstanding := by cases s; rfl
@[simp] theorem setCause_merger (c : AlertCause) : (setCause c s).merger = s.merger := by cases s; rfl
@[simp] theorem setCause_store (c : AlertCause) : (setCause c s).store = s.store := by cases s; rfl
@[simp] theorem setCause_capture (c : AlertCause) : (setCause c s).capture = s.capture := by cases s; rfl
@[simp] theorem setCause_alert (c : AlertCause) : (setCause c s).alert = { s.alert with causes := s.alert.causes ||| c.mask } := by cases s; rfl
@[simp] theorem setCause_link (c : AlertCause) : (setCause c s).link = s.link := by cases s; rfl
@[simp] theorem setCause_pending (c : AlertCause) : (setCause c s).pending = s.pending := by cases s; rfl
@[simp] theorem setCause_mdi (c : AlertCause) : (setCause c s).mdi = s.mdi := by cases s; rfl

@[simp] theorem ackCauses_power (m : BitVec 6) : (ackCauses m s).power = s.power := by cases s; rfl
@[simp] theorem ackCauses_reg (m : BitVec 6) : (ackCauses m s).reg = s.reg := by cases s; rfl
@[simp] theorem ackCauses_hostPort (m : BitVec 6) : (ackCauses m s).hostPort = s.hostPort := by cases s; rfl
@[simp] theorem ackCauses_memPort (m : BitVec 6) : (ackCauses m s).memPort = s.memPort := by cases s; rfl
@[simp] theorem ackCauses_accounts (m : BitVec 6) : (ackCauses m s).accounts = s.accounts := by cases s; rfl
@[simp] theorem ackCauses_time (m : BitVec 6) : (ackCauses m s).time = s.time := by cases s; rfl
@[simp] theorem ackCauses_pool (m : BitVec 6) : (ackCauses m s).pool = s.pool := by cases s; rfl
@[simp] theorem ackCauses_outstanding (m : BitVec 6) : (ackCauses m s).outstanding = s.outstanding := by cases s; rfl
@[simp] theorem ackCauses_merger (m : BitVec 6) : (ackCauses m s).merger = s.merger := by cases s; rfl
@[simp] theorem ackCauses_store (m : BitVec 6) : (ackCauses m s).store = s.store := by cases s; rfl
@[simp] theorem ackCauses_capture (m : BitVec 6) : (ackCauses m s).capture = s.capture := by cases s; rfl
@[simp] theorem ackCauses_alert (m : BitVec 6) : (ackCauses m s).alert = { s.alert with causes := s.alert.causes &&& ~~~m } := by cases s; rfl
@[simp] theorem ackCauses_link (m : BitVec 6) : (ackCauses m s).link = s.link := by cases s; rfl
@[simp] theorem ackCauses_pending (m : BitVec 6) : (ackCauses m s).pending = s.pending := by cases s; rfl
@[simp] theorem ackCauses_mdi (m : BitVec 6) : (ackCauses m s).mdi = s.mdi := by cases s; rfl

@[simp] theorem setEnables_power (m : BitVec 6) : (setEnables m s).power = s.power := by cases s; rfl
@[simp] theorem setEnables_reg (m : BitVec 6) : (setEnables m s).reg = s.reg := by cases s; rfl
@[simp] theorem setEnables_hostPort (m : BitVec 6) : (setEnables m s).hostPort = s.hostPort := by cases s; rfl
@[simp] theorem setEnables_memPort (m : BitVec 6) : (setEnables m s).memPort = s.memPort := by cases s; rfl
@[simp] theorem setEnables_accounts (m : BitVec 6) : (setEnables m s).accounts = s.accounts := by cases s; rfl
@[simp] theorem setEnables_time (m : BitVec 6) : (setEnables m s).time = s.time := by cases s; rfl
@[simp] theorem setEnables_pool (m : BitVec 6) : (setEnables m s).pool = s.pool := by cases s; rfl
@[simp] theorem setEnables_outstanding (m : BitVec 6) : (setEnables m s).outstanding = s.outstanding := by cases s; rfl
@[simp] theorem setEnables_merger (m : BitVec 6) : (setEnables m s).merger = s.merger := by cases s; rfl
@[simp] theorem setEnables_store (m : BitVec 6) : (setEnables m s).store = s.store := by cases s; rfl
@[simp] theorem setEnables_capture (m : BitVec 6) : (setEnables m s).capture = s.capture := by cases s; rfl
@[simp] theorem setEnables_alert (m : BitVec 6) : (setEnables m s).alert = { s.alert with enables := m } := by cases s; rfl
@[simp] theorem setEnables_link (m : BitVec 6) : (setEnables m s).link = s.link := by cases s; rfl
@[simp] theorem setEnables_pending (m : BitVec 6) : (setEnables m s).pending = s.pending := by cases s; rfl
@[simp] theorem setEnables_mdi (m : BitVec 6) : (setEnables m s).mdi = s.mdi := by cases s; rfl

@[simp] theorem updateAccount_power (a : AccountIndex) (f : Account → Account) : (updateAccount a f s).power = s.power := by cases s; rfl
@[simp] theorem updateAccount_reg (a : AccountIndex) (f : Account → Account) : (updateAccount a f s).reg = s.reg := by cases s; rfl
@[simp] theorem updateAccount_hostPort (a : AccountIndex) (f : Account → Account) : (updateAccount a f s).hostPort = s.hostPort := by cases s; rfl
@[simp] theorem updateAccount_memPort (a : AccountIndex) (f : Account → Account) : (updateAccount a f s).memPort = s.memPort := by cases s; rfl
@[simp] theorem updateAccount_accounts (a : AccountIndex) (f : Account → Account) : (updateAccount a f s).accounts = s.accounts.set a.val (f (accountOf s a)) a.isLt := by cases s; rfl
@[simp] theorem updateAccount_time (a : AccountIndex) (f : Account → Account) : (updateAccount a f s).time = s.time := by cases s; rfl
@[simp] theorem updateAccount_pool (a : AccountIndex) (f : Account → Account) : (updateAccount a f s).pool = s.pool := by cases s; rfl
@[simp] theorem updateAccount_outstanding (a : AccountIndex) (f : Account → Account) : (updateAccount a f s).outstanding = s.outstanding := by cases s; rfl
@[simp] theorem updateAccount_merger (a : AccountIndex) (f : Account → Account) : (updateAccount a f s).merger = s.merger := by cases s; rfl
@[simp] theorem updateAccount_store (a : AccountIndex) (f : Account → Account) : (updateAccount a f s).store = s.store := by cases s; rfl
@[simp] theorem updateAccount_capture (a : AccountIndex) (f : Account → Account) : (updateAccount a f s).capture = s.capture := by cases s; rfl
@[simp] theorem updateAccount_alert (a : AccountIndex) (f : Account → Account) : (updateAccount a f s).alert = s.alert := by cases s; rfl
@[simp] theorem updateAccount_link (a : AccountIndex) (f : Account → Account) : (updateAccount a f s).link = s.link := by cases s; rfl
@[simp] theorem updateAccount_pending (a : AccountIndex) (f : Account → Account) : (updateAccount a f s).pending = s.pending := by cases s; rfl
@[simp] theorem updateAccount_mdi (a : AccountIndex) (f : Account → Account) : (updateAccount a f s).mdi = s.mdi := by cases s; rfl

@[simp] theorem updateAllAccounts_power (f : AccountIndex → Account → Account) : (updateAllAccounts f s).power = s.power := by cases s; rfl
@[simp] theorem updateAllAccounts_reg (f : AccountIndex → Account → Account) : (updateAllAccounts f s).reg = s.reg := by cases s; rfl
@[simp] theorem updateAllAccounts_hostPort (f : AccountIndex → Account → Account) : (updateAllAccounts f s).hostPort = s.hostPort := by cases s; rfl
@[simp] theorem updateAllAccounts_memPort (f : AccountIndex → Account → Account) : (updateAllAccounts f s).memPort = s.memPort := by cases s; rfl
@[simp] theorem updateAllAccounts_accounts (f : AccountIndex → Account → Account) : (updateAllAccounts f s).accounts = Vector.ofFn fun a => f a (accountOf s a) := by cases s; rfl
@[simp] theorem updateAllAccounts_time (f : AccountIndex → Account → Account) : (updateAllAccounts f s).time = s.time := by cases s; rfl
@[simp] theorem updateAllAccounts_pool (f : AccountIndex → Account → Account) : (updateAllAccounts f s).pool = s.pool := by cases s; rfl
@[simp] theorem updateAllAccounts_outstanding (f : AccountIndex → Account → Account) : (updateAllAccounts f s).outstanding = s.outstanding := by cases s; rfl
@[simp] theorem updateAllAccounts_merger (f : AccountIndex → Account → Account) : (updateAllAccounts f s).merger = s.merger := by cases s; rfl
@[simp] theorem updateAllAccounts_store (f : AccountIndex → Account → Account) : (updateAllAccounts f s).store = s.store := by cases s; rfl
@[simp] theorem updateAllAccounts_capture (f : AccountIndex → Account → Account) : (updateAllAccounts f s).capture = s.capture := by cases s; rfl
@[simp] theorem updateAllAccounts_alert (f : AccountIndex → Account → Account) : (updateAllAccounts f s).alert = s.alert := by cases s; rfl
@[simp] theorem updateAllAccounts_link (f : AccountIndex → Account → Account) : (updateAllAccounts f s).link = s.link := by cases s; rfl
@[simp] theorem updateAllAccounts_pending (f : AccountIndex → Account → Account) : (updateAllAccounts f s).pending = s.pending := by cases s; rfl
@[simp] theorem updateAllAccounts_mdi (f : AccountIndex → Account → Account) : (updateAllAccounts f s).mdi = s.mdi := by cases s; rfl

@[simp] theorem captureAdd_power (q : Request) (c : Cause) (a : Option AccountIndex) : (captureAdd q c a s).power = s.power := by cases s; rfl
@[simp] theorem captureAdd_reg (q : Request) (c : Cause) (a : Option AccountIndex) : (captureAdd q c a s).reg = s.reg := by cases s; rfl
@[simp] theorem captureAdd_hostPort (q : Request) (c : Cause) (a : Option AccountIndex) : (captureAdd q c a s).hostPort = s.hostPort := by cases s; rfl
@[simp] theorem captureAdd_memPort (q : Request) (c : Cause) (a : Option AccountIndex) : (captureAdd q c a s).memPort = s.memPort := by cases s; rfl
@[simp] theorem captureAdd_accounts (q : Request) (c : Cause) (a : Option AccountIndex) : (captureAdd q c a s).accounts = s.accounts := by cases s; rfl
@[simp] theorem captureAdd_time (q : Request) (c : Cause) (a : Option AccountIndex) : (captureAdd q c a s).time = s.time := by cases s; rfl
@[simp] theorem captureAdd_pool (q : Request) (c : Cause) (a : Option AccountIndex) : (captureAdd q c a s).pool = s.pool := by cases s; rfl
@[simp] theorem captureAdd_outstanding (q : Request) (c : Cause) (a : Option AccountIndex) : (captureAdd q c a s).outstanding = s.outstanding := by cases s; rfl
@[simp] theorem captureAdd_merger (q : Request) (c : Cause) (a : Option AccountIndex) : (captureAdd q c a s).merger = s.merger := by cases s; rfl
@[simp] theorem captureAdd_store (q : Request) (c : Cause) (a : Option AccountIndex) : (captureAdd q c a s).store = s.store := by cases s; rfl
@[simp] theorem captureAdd_capture (q : Request) (c : Cause) (a : Option AccountIndex) : (captureAdd q c a s).capture = s.capture.add (captureRecordOf s q c a) := by cases s; rfl
@[simp] theorem captureAdd_alert (q : Request) (c : Cause) (a : Option AccountIndex) : (captureAdd q c a s).alert = { s.alert with causes := s.alert.causes ||| 0x01 } := by cases s; rfl
@[simp] theorem captureAdd_link (q : Request) (c : Cause) (a : Option AccountIndex) : (captureAdd q c a s).link = s.link := by cases s; rfl
@[simp] theorem captureAdd_pending (q : Request) (c : Cause) (a : Option AccountIndex) : (captureAdd q c a s).pending = s.pending := by cases s; rfl
@[simp] theorem captureAdd_mdi (q : Request) (c : Cause) (a : Option AccountIndex) : (captureAdd q c a s).mdi = s.mdi := by cases s; rfl

@[simp] theorem removeSlot_power (i : SlotIndex) : (removeSlot i s).power = s.power := by cases s; rfl
@[simp] theorem removeSlot_reg (i : SlotIndex) : (removeSlot i s).reg = s.reg := by cases s; rfl
@[simp] theorem removeSlot_hostPort (i : SlotIndex) : (removeSlot i s).hostPort = s.hostPort := by cases s; rfl
@[simp] theorem removeSlot_memPort (i : SlotIndex) : (removeSlot i s).memPort = s.memPort := by cases s; rfl
@[simp] theorem removeSlot_accounts (i : SlotIndex) : (removeSlot i s).accounts = s.accounts := by cases s; rfl
@[simp] theorem removeSlot_time (i : SlotIndex) : (removeSlot i s).time = s.time := by cases s; rfl
@[simp] theorem removeSlot_pool (i : SlotIndex) : (removeSlot i s).pool = s.pool.filter fun e => e.slot != i := by cases s; rfl
@[simp] theorem removeSlot_outstanding (i : SlotIndex) : (removeSlot i s).outstanding = s.outstanding := by cases s; rfl
@[simp] theorem removeSlot_merger (i : SlotIndex) : (removeSlot i s).merger = s.merger := by cases s; rfl
@[simp] theorem removeSlot_store (i : SlotIndex) : (removeSlot i s).store = s.store := by cases s; rfl
@[simp] theorem removeSlot_capture (i : SlotIndex) : (removeSlot i s).capture = s.capture := by cases s; rfl
@[simp] theorem removeSlot_alert (i : SlotIndex) : (removeSlot i s).alert = s.alert := by cases s; rfl
@[simp] theorem removeSlot_link (i : SlotIndex) : (removeSlot i s).link = s.link := by cases s; rfl
@[simp] theorem removeSlot_pending (i : SlotIndex) : (removeSlot i s).pending = s.pending := by cases s; rfl
@[simp] theorem removeSlot_mdi (i : SlotIndex) : (removeSlot i s).mdi = s.mdi := by cases s; rfl

@[simp] theorem releaseRecords_power (x : Option AccountIndex) : (releaseRecords x s).power = s.power := by cases s; rfl
@[simp] theorem releaseRecords_reg (x : Option AccountIndex) : (releaseRecords x s).reg = s.reg := by cases s; rfl
@[simp] theorem releaseRecords_hostPort (x : Option AccountIndex) : (releaseRecords x s).hostPort = s.hostPort := by cases s; rfl
@[simp] theorem releaseRecords_memPort (x : Option AccountIndex) : (releaseRecords x s).memPort = s.memPort := by cases s; rfl
@[simp] theorem releaseRecords_accounts (x : Option AccountIndex) : (releaseRecords x s).accounts = s.accounts := by cases s; rfl
@[simp] theorem releaseRecords_time (x : Option AccountIndex) : (releaseRecords x s).time = s.time := by cases s; rfl
@[simp] theorem releaseRecords_outstanding (x : Option AccountIndex) : (releaseRecords x s).outstanding = s.outstanding := by cases s; rfl
@[simp] theorem releaseRecords_merger (x : Option AccountIndex) : (releaseRecords x s).merger = s.merger := by cases s; rfl
@[simp] theorem releaseRecords_store (x : Option AccountIndex) : (releaseRecords x s).store = s.store := by cases s; rfl
@[simp] theorem releaseRecords_capture (x : Option AccountIndex) : (releaseRecords x s).capture = s.capture := by cases s; rfl
@[simp] theorem releaseRecords_alert (x : Option AccountIndex) : (releaseRecords x s).alert = s.alert := by cases s; rfl
@[simp] theorem releaseRecords_link (x : Option AccountIndex) : (releaseRecords x s).link = s.link := by cases s; rfl
@[simp] theorem releaseRecords_pending (x : Option AccountIndex) : (releaseRecords x s).pending = s.pending := by cases s; rfl
@[simp] theorem releaseRecords_mdi (x : Option AccountIndex) : (releaseRecords x s).mdi = s.mdi := by cases s; rfl

@[simp] theorem takeHeld_power (q : Request) (a : AccountIndex) (b : Blocker) (i : SlotIndex) : (takeHeld q a b i s).power = s.power := by cases s; rfl
@[simp] theorem takeHeld_reg (q : Request) (a : AccountIndex) (b : Blocker) (i : SlotIndex) : (takeHeld q a b i s).reg = s.reg := by cases s; rfl
@[simp] theorem takeHeld_hostPort (q : Request) (a : AccountIndex) (b : Blocker) (i : SlotIndex) : (takeHeld q a b i s).hostPort = { s.hostPort with head := none } := by cases s; rfl
@[simp] theorem takeHeld_memPort (q : Request) (a : AccountIndex) (b : Blocker) (i : SlotIndex) : (takeHeld q a b i s).memPort = s.memPort := by cases s; rfl
@[simp] theorem takeHeld_accounts (q : Request) (a : AccountIndex) (b : Blocker) (i : SlotIndex) : (takeHeld q a b i s).accounts = s.accounts.set a.val (countHold (accountOf s a)) a.isLt := by cases s; rfl
@[simp] theorem takeHeld_time (q : Request) (a : AccountIndex) (b : Blocker) (i : SlotIndex) : (takeHeld q a b i s).time = s.time := by cases s; rfl
@[simp] theorem takeHeld_pool (q : Request) (a : AccountIndex) (b : Blocker) (i : SlotIndex) : (takeHeld q a b i s).pool = s.pool ++ [⟨i, .held { req := q, account := a, wait := 0, exempt := false, blocker := b }⟩] := by cases s; rfl
@[simp] theorem takeHeld_outstanding (q : Request) (a : AccountIndex) (b : Blocker) (i : SlotIndex) : (takeHeld q a b i s).outstanding = s.outstanding := by cases s; rfl
@[simp] theorem takeHeld_merger (q : Request) (a : AccountIndex) (b : Blocker) (i : SlotIndex) : (takeHeld q a b i s).merger = s.merger := by cases s; rfl
@[simp] theorem takeHeld_store (q : Request) (a : AccountIndex) (b : Blocker) (i : SlotIndex) : (takeHeld q a b i s).store = s.store := by cases s; rfl
@[simp] theorem takeHeld_capture (q : Request) (a : AccountIndex) (b : Blocker) (i : SlotIndex) : (takeHeld q a b i s).capture = s.capture := by cases s; rfl
@[simp] theorem takeHeld_alert (q : Request) (a : AccountIndex) (b : Blocker) (i : SlotIndex) : (takeHeld q a b i s).alert = s.alert := by cases s; rfl
@[simp] theorem takeHeld_link (q : Request) (a : AccountIndex) (b : Blocker) (i : SlotIndex) : (takeHeld q a b i s).link = s.link := by cases s; rfl
@[simp] theorem takeHeld_pending (q : Request) (a : AccountIndex) (b : Blocker) (i : SlotIndex) : (takeHeld q a b i s).pending = s.pending := by cases s; rfl
@[simp] theorem takeHeld_mdi (q : Request) (a : AccountIndex) (b : Blocker) (i : SlotIndex) : (takeHeld q a b i s).mdi = s.mdi := by cases s; rfl

@[simp] theorem issueRequest_power (q : Request) (a : AccountIndex) (x : Bool) : (issueRequest q a x s).power = s.power := by cases s; rfl
@[simp] theorem issueRequest_reg (q : Request) (a : AccountIndex) (x : Bool) : (issueRequest q a x s).reg = s.reg := by cases s; rfl
@[simp] theorem issueRequest_hostPort (q : Request) (a : AccountIndex) (x : Bool) : (issueRequest q a x s).hostPort = s.hostPort := by cases s; rfl
@[simp] theorem issueRequest_memPort (q : Request) (a : AccountIndex) (x : Bool) : (issueRequest q a x s).memPort = { s.memPort with issued := some q } := by cases s; rfl
@[simp] theorem issueRequest_time (q : Request) (a : AccountIndex) (x : Bool) : (issueRequest q a x s).time = s.time := by cases s; rfl
@[simp] theorem issueRequest_pool (q : Request) (a : AccountIndex) (x : Bool) : (issueRequest q a x s).pool = s.pool := by cases s; rfl
@[simp] theorem issueRequest_outstanding (q : Request) (a : AccountIndex) (x : Bool) : (issueRequest q a x s).outstanding = s.outstanding ++ [{ id := q.id, tag := q.tag, account := a }] := by cases s; rfl
@[simp] theorem issueRequest_merger (q : Request) (a : AccountIndex) (x : Bool) : (issueRequest q a x s).merger = s.merger := by cases s; rfl
@[simp] theorem issueRequest_store (q : Request) (a : AccountIndex) (x : Bool) : (issueRequest q a x s).store = s.store := by cases s; rfl
@[simp] theorem issueRequest_capture (q : Request) (a : AccountIndex) (x : Bool) : (issueRequest q a x s).capture = s.capture := by cases s; rfl
@[simp] theorem issueRequest_alert (q : Request) (a : AccountIndex) (x : Bool) : (issueRequest q a x s).alert = s.alert := by cases s; rfl
@[simp] theorem issueRequest_link (q : Request) (a : AccountIndex) (x : Bool) : (issueRequest q a x s).link = s.link := by cases s; rfl
@[simp] theorem issueRequest_pending (q : Request) (a : AccountIndex) (x : Bool) : (issueRequest q a x s).pending = s.pending := by cases s; rfl
@[simp] theorem issueRequest_mdi (q : Request) (a : AccountIndex) (x : Bool) : (issueRequest q a x s).mdi = s.mdi := by cases s; rfl

@[simp] theorem strayResponse_power : (strayResponse s).power = s.power := by cases s; rfl
@[simp] theorem strayResponse_reg : (strayResponse s).reg = s.reg := by cases s; rfl
@[simp] theorem strayResponse_hostPort : (strayResponse s).hostPort = s.hostPort := by cases s; rfl
@[simp] theorem strayResponse_memPort : (strayResponse s).memPort = { s.memPort with resp := none, strays := satAdd 65535 s.memPort.strays 1 } := by cases s; rfl
@[simp] theorem strayResponse_accounts : (strayResponse s).accounts = s.accounts := by cases s; rfl
@[simp] theorem strayResponse_time : (strayResponse s).time = s.time := by cases s; rfl
@[simp] theorem strayResponse_pool : (strayResponse s).pool = s.pool := by cases s; rfl
@[simp] theorem strayResponse_outstanding : (strayResponse s).outstanding = s.outstanding := by cases s; rfl
@[simp] theorem strayResponse_merger : (strayResponse s).merger = s.merger := by cases s; rfl
@[simp] theorem strayResponse_store : (strayResponse s).store = s.store := by cases s; rfl
@[simp] theorem strayResponse_capture : (strayResponse s).capture = s.capture := by cases s; rfl
@[simp] theorem strayResponse_alert : (strayResponse s).alert = { s.alert with causes := s.alert.causes ||| 0x08 } := by cases s; rfl
@[simp] theorem strayResponse_link : (strayResponse s).link = s.link := by cases s; rfl
@[simp] theorem strayResponse_pending : (strayResponse s).pending = s.pending := by cases s; rfl
@[simp] theorem strayResponse_mdi : (strayResponse s).mdi = s.mdi := by cases s; rfl

@[simp] theorem grantAll_power : (grantAll s).power = s.power := by cases s; rfl
@[simp] theorem grantAll_reg : (grantAll s).reg = s.reg := by cases s; rfl
@[simp] theorem grantAll_hostPort : (grantAll s).hostPort = s.hostPort := by cases s; rfl
@[simp] theorem grantAll_memPort : (grantAll s).memPort = s.memPort := by cases s; rfl
@[simp] theorem grantAll_time : (grantAll s).time = s.time := by cases s; rfl
@[simp] theorem grantAll_pool : (grantAll s).pool = s.pool := by cases s; rfl
@[simp] theorem grantAll_outstanding : (grantAll s).outstanding = s.outstanding := by cases s; rfl
@[simp] theorem grantAll_merger : (grantAll s).merger = s.merger := by cases s; rfl
@[simp] theorem grantAll_store : (grantAll s).store = s.store := by cases s; rfl
@[simp] theorem grantAll_capture : (grantAll s).capture = s.capture := by cases s; rfl
@[simp] theorem grantAll_alert : (grantAll s).alert = s.alert := by cases s; rfl
@[simp] theorem grantAll_link : (grantAll s).link = s.link := by cases s; rfl
@[simp] theorem grantAll_pending : (grantAll s).pending = s.pending := by cases s; rfl
@[simp] theorem grantAll_mdi : (grantAll s).mdi = s.mdi := by cases s; rfl

@[simp] theorem publish_power : (publish s).power = s.power := by cases s; rfl
@[simp] theorem publish_reg : (publish s).reg = s.reg := by cases s; rfl
@[simp] theorem publish_hostPort : (publish s).hostPort = s.hostPort := by cases s; rfl
@[simp] theorem publish_memPort : (publish s).memPort = s.memPort := by cases s; rfl
@[simp] theorem publish_time : (publish s).time = s.time := by cases s; rfl
@[simp] theorem publish_pool : (publish s).pool = s.pool := by cases s; rfl
@[simp] theorem publish_outstanding : (publish s).outstanding = s.outstanding := by cases s; rfl
@[simp] theorem publish_merger : (publish s).merger = s.merger := by cases s; rfl
@[simp] theorem publish_store : (publish s).store = { staged := s.store.staged, live := s.store.staged, commitPending := false } := by cases s; rfl
@[simp] theorem publish_capture : (publish s).capture = s.capture := by cases s; rfl
@[simp] theorem publish_alert : (publish s).alert = { s.alert with causes := s.alert.causes ||| 0x02 } := by cases s; rfl
@[simp] theorem publish_link : (publish s).link = s.link := by cases s; rfl
@[simp] theorem publish_pending : (publish s).pending = s.pending := by cases s; rfl
@[simp] theorem publish_mdi : (publish s).mdi = s.mdi := by cases s; rfl

@[simp] theorem setStaged_power (c : Configuration) : (setStaged c s).power = s.power := by cases s; rfl
@[simp] theorem setStaged_reg (c : Configuration) : (setStaged c s).reg = s.reg := by cases s; rfl
@[simp] theorem setStaged_hostPort (c : Configuration) : (setStaged c s).hostPort = s.hostPort := by cases s; rfl
@[simp] theorem setStaged_memPort (c : Configuration) : (setStaged c s).memPort = s.memPort := by cases s; rfl
@[simp] theorem setStaged_accounts (c : Configuration) : (setStaged c s).accounts = s.accounts := by cases s; rfl
@[simp] theorem setStaged_time (c : Configuration) : (setStaged c s).time = s.time := by cases s; rfl
@[simp] theorem setStaged_pool (c : Configuration) : (setStaged c s).pool = s.pool := by cases s; rfl
@[simp] theorem setStaged_outstanding (c : Configuration) : (setStaged c s).outstanding = s.outstanding := by cases s; rfl
@[simp] theorem setStaged_merger (c : Configuration) : (setStaged c s).merger = s.merger := by cases s; rfl
@[simp] theorem setStaged_store (c : Configuration) : (setStaged c s).store = { s.store with staged := c } := by cases s; rfl
@[simp] theorem setStaged_capture (c : Configuration) : (setStaged c s).capture = s.capture := by cases s; rfl
@[simp] theorem setStaged_alert (c : Configuration) : (setStaged c s).alert = s.alert := by cases s; rfl
@[simp] theorem setStaged_link (c : Configuration) : (setStaged c s).link = s.link := by cases s; rfl
@[simp] theorem setStaged_pending (c : Configuration) : (setStaged c s).pending = s.pending := by cases s; rfl
@[simp] theorem setStaged_mdi (c : Configuration) : (setStaged c s).mdi = s.mdi := by cases s; rfl

@[simp] theorem clearGlobalCounters_power : (clearGlobalCounters s).power = s.power := by cases s; rfl
@[simp] theorem clearGlobalCounters_reg : (clearGlobalCounters s).reg = s.reg := by cases s; rfl
@[simp] theorem clearGlobalCounters_hostPort : (clearGlobalCounters s).hostPort = { s.hostPort with slotWaits := 0, tagWaits := 0 } := by cases s; rfl
@[simp] theorem clearGlobalCounters_memPort : (clearGlobalCounters s).memPort = { s.memPort with strays := 0 } := by cases s; rfl
@[simp] theorem clearGlobalCounters_accounts : (clearGlobalCounters s).accounts = s.accounts := by cases s; rfl
@[simp] theorem clearGlobalCounters_time : (clearGlobalCounters s).time = s.time := by cases s; rfl
@[simp] theorem clearGlobalCounters_pool : (clearGlobalCounters s).pool = s.pool := by cases s; rfl
@[simp] theorem clearGlobalCounters_outstanding : (clearGlobalCounters s).outstanding = s.outstanding := by cases s; rfl
@[simp] theorem clearGlobalCounters_merger : (clearGlobalCounters s).merger = s.merger := by cases s; rfl
@[simp] theorem clearGlobalCounters_store : (clearGlobalCounters s).store = s.store := by cases s; rfl
@[simp] theorem clearGlobalCounters_capture : (clearGlobalCounters s).capture = s.capture := by cases s; rfl
@[simp] theorem clearGlobalCounters_alert : (clearGlobalCounters s).alert = s.alert := by cases s; rfl
@[simp] theorem clearGlobalCounters_link : (clearGlobalCounters s).link = { s.link with errors := 0 } := by cases s; rfl
@[simp] theorem clearGlobalCounters_pending : (clearGlobalCounters s).pending = s.pending := by cases s; rfl
@[simp] theorem clearGlobalCounters_mdi : (clearGlobalCounters s).mdi = s.mdi := by cases s; rfl

@[simp] theorem setLinkState_power (st : LinkState) : (setLinkState st s).power = s.power := by cases s; rfl
@[simp] theorem setLinkState_reg (st : LinkState) : (setLinkState st s).reg = s.reg := by cases s; rfl
@[simp] theorem setLinkState_hostPort (st : LinkState) : (setLinkState st s).hostPort = s.hostPort := by cases s; rfl
@[simp] theorem setLinkState_memPort (st : LinkState) : (setLinkState st s).memPort = s.memPort := by cases s; rfl
@[simp] theorem setLinkState_accounts (st : LinkState) : (setLinkState st s).accounts = s.accounts := by cases s; rfl
@[simp] theorem setLinkState_time (st : LinkState) : (setLinkState st s).time = s.time := by cases s; rfl
@[simp] theorem setLinkState_pool (st : LinkState) : (setLinkState st s).pool = s.pool := by cases s; rfl
@[simp] theorem setLinkState_outstanding (st : LinkState) : (setLinkState st s).outstanding = s.outstanding := by cases s; rfl
@[simp] theorem setLinkState_merger (st : LinkState) : (setLinkState st s).merger = s.merger := by cases s; rfl
@[simp] theorem setLinkState_store (st : LinkState) : (setLinkState st s).store = s.store := by cases s; rfl
@[simp] theorem setLinkState_capture (st : LinkState) : (setLinkState st s).capture = s.capture := by cases s; rfl
@[simp] theorem setLinkState_alert (st : LinkState) : (setLinkState st s).alert = s.alert := by cases s; rfl
@[simp] theorem setLinkState_link (st : LinkState) : (setLinkState st s).link = { s.link with state := st, gapTimer := 0 } := by cases s; rfl
@[simp] theorem setLinkState_pending (st : LinkState) : (setLinkState st s).pending = s.pending := by cases s; rfl
@[simp] theorem setLinkState_mdi (st : LinkState) : (setLinkState st s).mdi = s.mdi := by cases s; rfl

@[simp] theorem countLinkError_power : (countLinkError s).power = s.power := by cases s; rfl
@[simp] theorem countLinkError_reg : (countLinkError s).reg = s.reg := by cases s; rfl
@[simp] theorem countLinkError_hostPort : (countLinkError s).hostPort = s.hostPort := by cases s; rfl
@[simp] theorem countLinkError_memPort : (countLinkError s).memPort = s.memPort := by cases s; rfl
@[simp] theorem countLinkError_accounts : (countLinkError s).accounts = s.accounts := by cases s; rfl
@[simp] theorem countLinkError_time : (countLinkError s).time = s.time := by cases s; rfl
@[simp] theorem countLinkError_pool : (countLinkError s).pool = s.pool := by cases s; rfl
@[simp] theorem countLinkError_outstanding : (countLinkError s).outstanding = s.outstanding := by cases s; rfl
@[simp] theorem countLinkError_merger : (countLinkError s).merger = s.merger := by cases s; rfl
@[simp] theorem countLinkError_store : (countLinkError s).store = s.store := by cases s; rfl
@[simp] theorem countLinkError_capture : (countLinkError s).capture = s.capture := by cases s; rfl
@[simp] theorem countLinkError_alert : (countLinkError s).alert = { s.alert with causes := s.alert.causes ||| 0x20 } := by cases s; rfl
@[simp] theorem countLinkError_link : (countLinkError s).link = { s.link with errors := satAdd 255 s.link.errors 1 } := by cases s; rfl
@[simp] theorem countLinkError_pending : (countLinkError s).pending = s.pending := by cases s; rfl
@[simp] theorem countLinkError_mdi : (countLinkError s).mdi = s.mdi := by cases s; rfl

@[simp] theorem beginResponse_power (r : Response) : (beginResponse r s).power = s.power := by cases s; rfl
@[simp] theorem beginResponse_reg (r : Response) : (beginResponse r s).reg = s.reg := by cases s; rfl
@[simp] theorem beginResponse_hostPort (r : Response) : (beginResponse r s).hostPort = s.hostPort := by cases s; rfl
@[simp] theorem beginResponse_memPort (r : Response) : (beginResponse r s).memPort = s.memPort := by cases s; rfl
@[simp] theorem beginResponse_accounts (r : Response) : (beginResponse r s).accounts = s.accounts := by cases s; rfl
@[simp] theorem beginResponse_time (r : Response) : (beginResponse r s).time = s.time := by cases s; rfl
@[simp] theorem beginResponse_pool (r : Response) : (beginResponse r s).pool = s.pool := by cases s; rfl
@[simp] theorem beginResponse_outstanding (r : Response) : (beginResponse r s).outstanding = s.outstanding := by cases s; rfl
@[simp] theorem beginResponse_merger (r : Response) : (beginResponse r s).merger = s.merger := by cases s; rfl
@[simp] theorem beginResponse_store (r : Response) : (beginResponse r s).store = s.store := by cases s; rfl
@[simp] theorem beginResponse_capture (r : Response) : (beginResponse r s).capture = s.capture := by cases s; rfl
@[simp] theorem beginResponse_alert (r : Response) : (beginResponse r s).alert = s.alert := by cases s; rfl
@[simp] theorem beginResponse_link (r : Response) : (beginResponse r s).link = { s.link with state := .responding { r with begun := true }, mdo := beginCharacter { r with begun := true } } := by cases s; rfl
@[simp] theorem beginResponse_pending (r : Response) : (beginResponse r s).pending = s.pending := by cases s; rfl
@[simp] theorem beginResponse_mdi (r : Response) : (beginResponse r s).mdi = s.mdi := by cases s; rfl

@[simp] theorem endResponse_power : (endResponse s).power = s.power := by cases s; rfl
@[simp] theorem endResponse_reg : (endResponse s).reg = s.reg := by cases s; rfl
@[simp] theorem endResponse_hostPort : (endResponse s).hostPort = s.hostPort := by cases s; rfl
@[simp] theorem endResponse_memPort : (endResponse s).memPort = s.memPort := by cases s; rfl
@[simp] theorem endResponse_accounts : (endResponse s).accounts = s.accounts := by cases s; rfl
@[simp] theorem endResponse_time : (endResponse s).time = s.time := by cases s; rfl
@[simp] theorem endResponse_pool : (endResponse s).pool = s.pool := by cases s; rfl
@[simp] theorem endResponse_outstanding : (endResponse s).outstanding = s.outstanding := by cases s; rfl
@[simp] theorem endResponse_merger : (endResponse s).merger = s.merger := by cases s; rfl
@[simp] theorem endResponse_store : (endResponse s).store = s.store := by cases s; rfl
@[simp] theorem endResponse_capture : (endResponse s).capture = s.capture := by cases s; rfl
@[simp] theorem endResponse_alert : (endResponse s).alert = s.alert := by cases s; rfl
@[simp] theorem endResponse_link : (endResponse s).link = { s.link with state := .selected, gapTimer := 0, mdo := none } := by cases s; rfl
@[simp] theorem endResponse_pending : (endResponse s).pending = s.pending := by cases s; rfl
@[simp] theorem endResponse_mdi : (endResponse s).mdi = s.mdi := by cases s; rfl

/-! ### One account after an update -/

/-- An update of one account changes that account alone. -/
theorem accountOf_updateAccount (a b : AccountIndex) (f : Account → Account) :
    accountOf (updateAccount a f s) b = if a = b then f (accountOf s a) else accountOf s b := by
  unfold accountOf updateAccount accountOf
  by_cases h : a = b
  · subst h; simp
  · have hne : a.val ≠ b.val := fun hv => h (Fin.ext hv)
    simp [h, hne]

/-- An update of every account changes each by its own function. -/
@[simp] theorem accountOf_updateAllAccounts (f : AccountIndex → Account → Account) (a : AccountIndex) :
    accountOf (updateAllAccounts f s) a = f a (accountOf s a) := by
  unfold accountOf updateAllAccounts
  simp [accountOf]

@[simp] theorem accountOf_updateAccount_same (a : AccountIndex) (f : Account → Account) :
    accountOf (updateAccount a f s) a = f (accountOf s a) := by simp [accountOf_updateAccount]

theorem accountOf_updateAccount_other {a b : AccountIndex} (f : Account → Account) (h : a ≠ b) :
    accountOf (updateAccount a f s) b = accountOf s b := by simp [accountOf_updateAccount, h]

/-- Live parameters are read from the store alone. -/
theorem liveParams_congr {s t : State} (h : t.store = s.store) (a : AccountIndex) :
    liveParams t a = liveParams s a := by unfold liveParams; rw [h]

/-- Account records are read from the table alone. -/
theorem accountOf_congr {s t : State} (h : t.accounts = s.accounts) (a : AccountIndex) :
    accountOf t a = accountOf s a := by unfold accountOf; rw [h]

/-- Regulation active is read from Regulation Control alone (R133). -/
theorem regulationActive_congr {s t : State} (h : t.reg = s.reg) : regulationActive t = regulationActive s := by
  unfold regulationActive; rw [h]

/-- Restraint is read from Regulation Control and the live configuration (R3). -/
theorem restrained_congr {s t : State} (hr : t.reg = s.reg) (hs : t.store = s.store) (a : AccountIndex) :
    restrained t a = restrained s a := by
  unfold restrained; rw [regulationActive_congr hr, liveParams_congr hs]

end Sys2Proof.Machine
end

