-- ==== Sys2Proof/Laws/Pool.lean ====
section
/-! SUPPORT. The Hold Pool and the head: what a re-evaluation, a refusal and a taking can change, said once. -/

namespace Sys2Proof.Machine

variable (s : State)

/-! ### Frames -/

@[simp] theorem recordRefusal_power (r : HeldRecord × Cause) : (recordRefusal s r).power = s.power := by
  unfold recordRefusal; simp
@[simp] theorem recordRefusal_reg (r : HeldRecord × Cause) : (recordRefusal s r).reg = s.reg := by
  unfold recordRefusal; simp
@[simp] theorem recordRefusal_hostPort (r : HeldRecord × Cause) : (recordRefusal s r).hostPort = s.hostPort := by
  unfold recordRefusal; simp
@[simp] theorem recordRefusal_memPort (r : HeldRecord × Cause) : (recordRefusal s r).memPort = s.memPort := by
  unfold recordRefusal; simp
@[simp] theorem recordRefusal_time (r : HeldRecord × Cause) : (recordRefusal s r).time = s.time := by
  unfold recordRefusal; simp
@[simp] theorem recordRefusal_pool (r : HeldRecord × Cause) : (recordRefusal s r).pool = s.pool := by
  unfold recordRefusal; simp
@[simp] theorem recordRefusal_outstanding (r : HeldRecord × Cause) : (recordRefusal s r).outstanding = s.outstanding := by
  unfold recordRefusal; simp
@[simp] theorem recordRefusal_merger (r : HeldRecord × Cause) : (recordRefusal s r).merger = s.merger := by
  unfold recordRefusal; simp
@[simp] theorem recordRefusal_store (r : HeldRecord × Cause) : (recordRefusal s r).store = s.store := by
  unfold recordRefusal; simp
@[simp] theorem recordRefusal_link (r : HeldRecord × Cause) : (recordRefusal s r).link = s.link := by
  unfold recordRefusal; simp
@[simp] theorem recordRefusal_pending (r : HeldRecord × Cause) : (recordRefusal s r).pending = s.pending := by
  unfold recordRefusal; simp
@[simp] theorem recordRefusal_mdi (r : HeldRecord × Cause) : (recordRefusal s r).mdi = s.mdi := by
  unfold recordRefusal; simp

@[simp] theorem foldl_recordRefusal_power (rs : List (HeldRecord × Cause)) :
    (rs.foldl recordRefusal s).power = s.power := by
  induction rs generalizing s with
  | nil => rfl
  | cons r rs ih => simp [ih]
@[simp] theorem foldl_recordRefusal_reg (rs : List (HeldRecord × Cause)) :
    (rs.foldl recordRefusal s).reg = s.reg := by
  induction rs generalizing s with
  | nil => rfl
  | cons r rs ih => simp [ih]
@[simp] theorem foldl_recordRefusal_hostPort (rs : List (HeldRecord × Cause)) :
    (rs.foldl recordRefusal s).hostPort = s.hostPort := by
  induction rs generalizing s with
  | nil => rfl
  | cons r rs ih => simp [ih]
@[simp] theorem foldl_recordRefusal_memPort (rs : List (HeldRecord × Cause)) :
    (rs.foldl recordRefusal s).memPort = s.memPort := by
  induction rs generalizing s with
  | nil => rfl
  | cons r rs ih => simp [ih]
@[simp] theorem foldl_recordRefusal_time (rs : List (HeldRecord × Cause)) :
    (rs.foldl recordRefusal s).time = s.time := by
  induction rs generalizing s with
  | nil => rfl
  | cons r rs ih => simp [ih]
@[simp] theorem foldl_recordRefusal_pool (rs : List (HeldRecord × Cause)) :
    (rs.foldl recordRefusal s).pool = s.pool := by
  induction rs generalizing s with
  | nil => rfl
  | cons r rs ih => simp [ih]
@[simp] theorem foldl_recordRefusal_outstanding (rs : List (HeldRecord × Cause)) :
    (rs.foldl recordRefusal s).outstanding = s.outstanding := by
  induction rs generalizing s with
  | nil => rfl
  | cons r rs ih => simp [ih]
@[simp] theorem foldl_recordRefusal_merger (rs : List (HeldRecord × Cause)) :
    (rs.foldl recordRefusal s).merger = s.merger := by
  induction rs generalizing s with
  | nil => rfl
  | cons r rs ih => simp [ih]
@[simp] theorem foldl_recordRefusal_store (rs : List (HeldRecord × Cause)) :
    (rs.foldl recordRefusal s).store = s.store := by
  induction rs generalizing s with
  | nil => rfl
  | cons r rs ih => simp [ih]
@[simp] theorem foldl_recordRefusal_link (rs : List (HeldRecord × Cause)) :
    (rs.foldl recordRefusal s).link = s.link := by
  induction rs generalizing s with
  | nil => rfl
  | cons r rs ih => simp [ih]
@[simp] theorem foldl_recordRefusal_pending (rs : List (HeldRecord × Cause)) :
    (rs.foldl recordRefusal s).pending = s.pending := by
  induction rs generalizing s with
  | nil => rfl
  | cons r rs ih => simp [ih]
@[simp] theorem foldl_recordRefusal_mdi (rs : List (HeldRecord × Cause)) :
    (rs.foldl recordRefusal s).mdi = s.mdi := by
  induction rs generalizing s with
  | nil => rfl
  | cons r rs ih => simp [ih]

@[simp] theorem reevaluatePool_power (o : Occasion) : (reevaluatePool o s).power = s.power := by
  unfold reevaluatePool; simp
@[simp] theorem reevaluatePool_reg (o : Occasion) : (reevaluatePool o s).reg = s.reg := by
  unfold reevaluatePool; simp
@[simp] theorem reevaluatePool_hostPort (o : Occasion) : (reevaluatePool o s).hostPort = s.hostPort := by
  unfold reevaluatePool; simp
@[simp] theorem reevaluatePool_memPort (o : Occasion) : (reevaluatePool o s).memPort = s.memPort := by
  unfold reevaluatePool; simp
@[simp] theorem reevaluatePool_time (o : Occasion) : (reevaluatePool o s).time = s.time := by
  unfold reevaluatePool; simp
@[simp] theorem reevaluatePool_outstanding (o : Occasion) : (reevaluatePool o s).outstanding = s.outstanding := by
  unfold reevaluatePool; simp
@[simp] theorem reevaluatePool_merger (o : Occasion) : (reevaluatePool o s).merger = s.merger := by
  unfold reevaluatePool; simp
@[simp] theorem reevaluatePool_store (o : Occasion) : (reevaluatePool o s).store = s.store := by
  unfold reevaluatePool; simp
@[simp] theorem reevaluatePool_link (o : Occasion) : (reevaluatePool o s).link = s.link := by
  unfold reevaluatePool; simp
@[simp] theorem reevaluatePool_pending (o : Occasion) : (reevaluatePool o s).pending = s.pending := by
  unfold reevaluatePool; simp
@[simp] theorem reevaluatePool_mdi (o : Occasion) : (reevaluatePool o s).mdi = s.mdi := by
  unfold reevaluatePool; simp

@[simp] theorem reevaluatePool_pool (o : Occasion) : (reevaluatePool o s).pool = (judgePool s o [] s.pool).1 := by
  unfold reevaluatePool; simp

@[simp] theorem refuseRecords_power (x : Option AccountIndex) : (refuseRecords x s).power = s.power := by
  unfold refuseRecords; simp
@[simp] theorem refuseRecords_reg (x : Option AccountIndex) : (refuseRecords x s).reg = s.reg := by
  unfold refuseRecords; simp
@[simp] theorem refuseRecords_hostPort (x : Option AccountIndex) : (refuseRecords x s).hostPort = s.hostPort := by
  unfold refuseRecords; simp
@[simp] theorem refuseRecords_memPort (x : Option AccountIndex) : (refuseRecords x s).memPort = s.memPort := by
  unfold refuseRecords; simp
@[simp] theorem refuseRecords_time (x : Option AccountIndex) : (refuseRecords x s).time = s.time := by
  unfold refuseRecords; simp
@[simp] theorem refuseRecords_outstanding (x : Option AccountIndex) : (refuseRecords x s).outstanding = s.outstanding := by
  unfold refuseRecords; simp
@[simp] theorem refuseRecords_merger (x : Option AccountIndex) : (refuseRecords x s).merger = s.merger := by
  unfold refuseRecords; simp
@[simp] theorem refuseRecords_store (x : Option AccountIndex) : (refuseRecords x s).store = s.store := by
  unfold refuseRecords; simp
@[simp] theorem refuseRecords_link (x : Option AccountIndex) : (refuseRecords x s).link = s.link := by
  unfold refuseRecords; simp
@[simp] theorem refuseRecords_pending (x : Option AccountIndex) : (refuseRecords x s).pending = s.pending := by
  unfold refuseRecords; simp
@[simp] theorem refuseRecords_mdi (x : Option AccountIndex) : (refuseRecords x s).mdi = s.mdi := by
  unfold refuseRecords; simp

@[simp] theorem refuseRecords_pool (x : Option AccountIndex) :
    (refuseRecords x s).pool = (judgePool s (.flushRefuse x) [] s.pool).1 := by
  unfold refuseRecords; simp

@[simp] theorem enterTagWait_power (h : Head) : (enterTagWait h s).power = s.power := by
  unfold enterTagWait; split <;> rfl
@[simp] theorem enterTagWait_reg (h : Head) : (enterTagWait h s).reg = s.reg := by
  unfold enterTagWait; split <;> rfl
@[simp] theorem enterTagWait_memPort (h : Head) : (enterTagWait h s).memPort = s.memPort := by
  unfold enterTagWait; split <;> rfl
@[simp] theorem enterTagWait_accounts (h : Head) : (enterTagWait h s).accounts = s.accounts := by
  unfold enterTagWait; split <;> rfl
@[simp] theorem enterTagWait_time (h : Head) : (enterTagWait h s).time = s.time := by
  unfold enterTagWait; split <;> rfl
@[simp] theorem enterTagWait_pool (h : Head) : (enterTagWait h s).pool = s.pool := by
  unfold enterTagWait; split <;> rfl
@[simp] theorem enterTagWait_outstanding (h : Head) : (enterTagWait h s).outstanding = s.outstanding := by
  unfold enterTagWait; split <;> rfl
@[simp] theorem enterTagWait_merger (h : Head) : (enterTagWait h s).merger = s.merger := by
  unfold enterTagWait; split <;> rfl
@[simp] theorem enterTagWait_store (h : Head) : (enterTagWait h s).store = s.store := by
  unfold enterTagWait; split <;> rfl
@[simp] theorem enterTagWait_capture (h : Head) : (enterTagWait h s).capture = s.capture := by
  unfold enterTagWait; split <;> rfl
@[simp] theorem enterTagWait_alert (h : Head) : (enterTagWait h s).alert = s.alert := by
  unfold enterTagWait; split <;> rfl
@[simp] theorem enterTagWait_link (h : Head) : (enterTagWait h s).link = s.link := by
  unfold enterTagWait; split <;> rfl
@[simp] theorem enterTagWait_pending (h : Head) : (enterTagWait h s).pending = s.pending := by
  unfold enterTagWait; split <;> rfl
@[simp] theorem enterTagWait_mdi (h : Head) : (enterTagWait h s).mdi = s.mdi := by
  unfold enterTagWait; split <;> rfl

@[simp] theorem enterSlotWait_power (h : Head) : (enterSlotWait h s).power = s.power := by
  unfold enterSlotWait; split <;> simp
@[simp] theorem enterSlotWait_reg (h : Head) : (enterSlotWait h s).reg = s.reg := by
  unfold enterSlotWait; split <;> simp
@[simp] theorem enterSlotWait_memPort (h : Head) : (enterSlotWait h s).memPort = s.memPort := by
  unfold enterSlotWait; split <;> simp
@[simp] theorem enterSlotWait_accounts (h : Head) : (enterSlotWait h s).accounts = s.accounts := by
  unfold enterSlotWait; split <;> simp
@[simp] theorem enterSlotWait_time (h : Head) : (enterSlotWait h s).time = s.time := by
  unfold enterSlotWait; split <;> simp
@[simp] theorem enterSlotWait_pool (h : Head) : (enterSlotWait h s).pool = s.pool := by
  unfold enterSlotWait; split <;> simp
@[simp] theorem enterSlotWait_outstanding (h : Head) : (enterSlotWait h s).outstanding = s.outstanding := by
  unfold enterSlotWait; split <;> simp
@[simp] theorem enterSlotWait_merger (h : Head) : (enterSlotWait h s).merger = s.merger := by
  unfold enterSlotWait; split <;> simp
@[simp] theorem enterSlotWait_store (h : Head) : (enterSlotWait h s).store = s.store := by
  unfold enterSlotWait; split <;> simp
@[simp] theorem enterSlotWait_capture (h : Head) : (enterSlotWait h s).capture = s.capture := by
  unfold enterSlotWait; split <;> simp
@[simp] theorem enterSlotWait_link (h : Head) : (enterSlotWait h s).link = s.link := by
  unfold enterSlotWait; split <;> simp
@[simp] theorem enterSlotWait_pending (h : Head) : (enterSlotWait h s).pending = s.pending := by
  unfold enterSlotWait; split <;> simp
@[simp] theorem enterSlotWait_mdi (h : Head) : (enterSlotWait h s).mdi = s.mdi := by
  unfold enterSlotWait; split <;> simp

@[simp] theorem takeRefusing_power (q : Request) (c : Cause) (a : Option AccountIndex) (i : SlotIndex) : (takeRefusing q c a i s).power = s.power := by
  unfold takeRefusing; cases a <;> simp
@[simp] theorem takeRefusing_reg (q : Request) (c : Cause) (a : Option AccountIndex) (i : SlotIndex) : (takeRefusing q c a i s).reg = s.reg := by
  unfold takeRefusing; cases a <;> simp
@[simp] theorem takeRefusing_memPort (q : Request) (c : Cause) (a : Option AccountIndex) (i : SlotIndex) : (takeRefusing q c a i s).memPort = s.memPort := by
  unfold takeRefusing; cases a <;> simp
@[simp] theorem takeRefusing_time (q : Request) (c : Cause) (a : Option AccountIndex) (i : SlotIndex) : (takeRefusing q c a i s).time = s.time := by
  unfold takeRefusing; cases a <;> simp
@[simp] theorem takeRefusing_outstanding (q : Request) (c : Cause) (a : Option AccountIndex) (i : SlotIndex) : (takeRefusing q c a i s).outstanding = s.outstanding := by
  unfold takeRefusing; cases a <;> simp
@[simp] theorem takeRefusing_merger (q : Request) (c : Cause) (a : Option AccountIndex) (i : SlotIndex) : (takeRefusing q c a i s).merger = s.merger := by
  unfold takeRefusing; cases a <;> simp
@[simp] theorem takeRefusing_store (q : Request) (c : Cause) (a : Option AccountIndex) (i : SlotIndex) : (takeRefusing q c a i s).store = s.store := by
  unfold takeRefusing; cases a <;> simp
@[simp] theorem takeRefusing_link (q : Request) (c : Cause) (a : Option AccountIndex) (i : SlotIndex) : (takeRefusing q c a i s).link = s.link := by
  unfold takeRefusing; cases a <;> simp
@[simp] theorem takeRefusing_pending (q : Request) (c : Cause) (a : Option AccountIndex) (i : SlotIndex) : (takeRefusing q c a i s).pending = s.pending := by
  unfold takeRefusing; cases a <;> simp
@[simp] theorem takeRefusing_mdi (q : Request) (c : Cause) (a : Option AccountIndex) (i : SlotIndex) : (takeRefusing q c a i s).mdi = s.mdi := by
  unfold takeRefusing; cases a <;> simp

theorem takeRefusing_pool (q : Request) (c : Cause) (a : Option AccountIndex) (i : SlotIndex) :
    (takeRefusing q c a i s).pool =
      s.pool ++ [⟨i, .refusing { id := q.id, tag := q.tag, dir := q.dir, cause := c, account := a }⟩] := by
  unfold takeRefusing; cases a <;> simp

@[simp] theorem judgeHead_power : (judgeHead s).power = s.power := by
  unfold judgeHead; repeat' split
  all_goals simp
@[simp] theorem judgeHead_reg : (judgeHead s).reg = s.reg := by
  unfold judgeHead; repeat' split
  all_goals simp
@[simp] theorem judgeHead_memPort : (judgeHead s).memPort = s.memPort := by
  unfold judgeHead; repeat' split
  all_goals simp
@[simp] theorem judgeHead_time : (judgeHead s).time = s.time := by
  unfold judgeHead; repeat' split
  all_goals simp
@[simp] theorem judgeHead_outstanding : (judgeHead s).outstanding = s.outstanding := by
  unfold judgeHead; repeat' split
  all_goals simp
@[simp] theorem judgeHead_merger : (judgeHead s).merger = s.merger := by
  unfold judgeHead; repeat' split
  all_goals simp
@[simp] theorem judgeHead_store : (judgeHead s).store = s.store := by
  unfold judgeHead; repeat' split
  all_goals simp
@[simp] theorem judgeHead_link : (judgeHead s).link = s.link := by
  unfold judgeHead; repeat' split
  all_goals simp
@[simp] theorem judgeHead_pending : (judgeHead s).pending = s.pending := by
  unfold judgeHead; repeat' split
  all_goals simp
@[simp] theorem judgeHead_mdi : (judgeHead s).mdi = s.mdi := by
  unfold judgeHead; repeat' split
  all_goals simp

@[simp] theorem settle_power : (settle s).power = s.power := by
  unfold settle; simp
@[simp] theorem settle_reg : (settle s).reg = s.reg := by
  unfold settle; simp
@[simp] theorem settle_memPort : (settle s).memPort = s.memPort := by
  unfold settle; simp
@[simp] theorem settle_time : (settle s).time = s.time := by
  unfold settle; simp
@[simp] theorem settle_outstanding : (settle s).outstanding = s.outstanding := by
  unfold settle; simp
@[simp] theorem settle_merger : (settle s).merger = s.merger := by
  unfold settle; simp
@[simp] theorem settle_store : (settle s).store = s.store := by
  unfold settle; simp
@[simp] theorem settle_link : (settle s).link = s.link := by
  unfold settle; simp
@[simp] theorem settle_pending : (settle s).pending = s.pending := by
  unfold settle; simp
@[simp] theorem settle_mdi : (settle s).mdi = s.mdi := by
  unfold settle; simp

@[simp] theorem agePool_power : (agePool s).power = s.power := by
  unfold agePool; simp
@[simp] theorem agePool_reg : (agePool s).reg = s.reg := by
  unfold agePool; simp
@[simp] theorem agePool_hostPort : (agePool s).hostPort = s.hostPort := by
  unfold agePool; simp
@[simp] theorem agePool_memPort : (agePool s).memPort = s.memPort := by
  unfold agePool; simp
@[simp] theorem agePool_pool : (agePool s).pool = s.pool.map ageEntry := by
  unfold agePool; simp
@[simp] theorem agePool_time : (agePool s).time = s.time := by
  unfold agePool; simp
@[simp] theorem agePool_outstanding : (agePool s).outstanding = s.outstanding := by
  unfold agePool; simp
@[simp] theorem agePool_merger : (agePool s).merger = s.merger := by
  unfold agePool; simp
@[simp] theorem agePool_store : (agePool s).store = s.store := by
  unfold agePool; simp
@[simp] theorem agePool_capture : (agePool s).capture = s.capture := by
  unfold agePool; simp
@[simp] theorem agePool_alert : (agePool s).alert = s.alert := by
  unfold agePool; simp
@[simp] theorem agePool_link : (agePool s).link = s.link := by
  unfold agePool; simp
@[simp] theorem agePool_pending : (agePool s).pending = s.pending := by
  unfold agePool; simp
@[simp] theorem agePool_mdi : (agePool s).mdi = s.mdi := by
  unfold agePool; simp

/-! ### Balances and outstanding counts -/

/-- A refusal changes no balance and no outstanding count (R82). -/
theorem recordRefusal_balance (r : HeldRecord × Cause) (a : AccountIndex) :
    (accountOf (recordRefusal s r) a).balance = (accountOf s a).balance ∧
      (accountOf (recordRefusal s r) a).outstanding = (accountOf s a).outstanding := by
  have h : accountOf (recordRefusal s r) a =
      accountOf (updateAccount r.1.account (fun acc => countRefusal r.2 (countUnhold acc)) s) a :=
    accountOf_congr (by unfold recordRefusal; simp) a
  rw [h, accountOf_updateAccount]
  split
  · rename_i ha; subst ha; cases r.2 <;> exact ⟨rfl, rfl⟩
  · exact ⟨rfl, rfl⟩

theorem foldl_recordRefusal_balance (rs : List (HeldRecord × Cause)) (a : AccountIndex) :
    (accountOf (rs.foldl recordRefusal s) a).balance = (accountOf s a).balance ∧
      (accountOf (rs.foldl recordRefusal s) a).outstanding = (accountOf s a).outstanding := by
  induction rs generalizing s with
  | nil => exact ⟨rfl, rfl⟩
  | cons r rs ih =>
    have h1 := ih (recordRefusal s r)
    have h2 := recordRefusal_balance s r a
    exact ⟨h1.1.trans h2.1, h1.2.trans h2.2⟩

/-- A re-evaluation changes no balance and no outstanding count (R80, R82). -/
theorem reevaluatePool_balance (o : Occasion) (a : AccountIndex) :
    (accountOf (reevaluatePool o s) a).balance = (accountOf s a).balance ∧
      (accountOf (reevaluatePool o s) a).outstanding = (accountOf s a).outstanding := by
  unfold reevaluatePool
  exact foldl_recordRefusal_balance _ _ a

/-- The taking of a head changes no balance and no outstanding count (R67, R68). -/
theorem judgeHead_balance (a : AccountIndex) :
    (accountOf (judgeHead s) a).balance = (accountOf s a).balance ∧
      (accountOf (judgeHead s) a).outstanding = (accountOf s a).outstanding := by
  have key : (judgeHead s).accounts = s.accounts ∨
      ∃ b f, (judgeHead s).accounts = (updateAccount b f s).accounts ∧
        ∀ acc : Account, (f acc).balance = acc.balance ∧ (f acc).outstanding = acc.outstanding := by
    unfold judgeHead
    split
    · exact .inl rfl
    · rename_i h _
      split
      · left; simp
      · split
        · exact .inl rfl
        · exact .inl rfl
        · rename_i x b _
          split
          · exact .inr ⟨x, countHold, by simp, fun _ => ⟨rfl, rfl⟩⟩
          · left; simp
        · rename_i c x _
          split
          · cases x with
            | none => exact .inl (by unfold takeRefusing; simp)
            | some x =>
              exact .inr ⟨x, countRefusal c, by unfold takeRefusing; simp; rfl, fun acc => by
                cases c <;> exact ⟨rfl, rfl⟩⟩
          · left; simp
  rcases key with h | ⟨b, f, h, hf⟩
  · rw [accountOf_congr h]; exact ⟨rfl, rfl⟩
  · rw [accountOf_congr h, accountOf_updateAccount]
    split
    · rename_i hb; subst hb; exact hf _
    · exact ⟨rfl, rfl⟩

/-- Settling changes no balance and no outstanding count. -/
theorem settle_balance (a : AccountIndex) :
    (accountOf (settle s) a).balance = (accountOf s a).balance ∧
      (accountOf (settle s) a).outstanding = (accountOf s a).outstanding := by
  unfold settle
  have h1 := judgeHead_balance (reevaluatePool .change s) a
  have h2 := reevaluatePool_balance s .change a
  exact ⟨h1.1.trans h2.1, h1.2.trans h2.2⟩

/-! ### Judging keeps slots and pairs -/

/-- A judgment keeps every record in its slot and in its place (R75, R82). -/
theorem judgePool_slots (o : Occasion) (older : List HeldRecord) (es : List PoolEntry) :
    (judgePool s o older es).1.map (fun e => e.slot) = es.map fun e => e.slot := by
  induction es generalizing older with
  | nil => rfl
  | cons e rest ih =>
    unfold judgePool
    split
    · simp [ih]
    · split <;> simp [ih]

/-- A judgment keeps the requester ID and tag of every record (R77, R80). -/
theorem judgePool_pairs (o : Occasion) (older : List HeldRecord) (es : List PoolEntry) :
    (judgePool s o older es).1.map (fun e => recordPair e.record) = es.map fun e => recordPair e.record := by
  induction es generalizing older with
  | nil => rfl
  | cons e rest ih =>
    unfold judgePool
    split
    · simp [ih]
    · split <;> simp_all [recordPair, refusingOf]

/-- The entry that a judgment makes of an entry, given the HELD records older than it (R80, R82). -/
def judgedEntry (s : State) (o : Occasion) (older : List HeldRecord) (e : PoolEntry) : PoolEntry :=
  match e.record with
  | .refusing _ => e
  | .held h =>
    match judge s o h older with
    | .keep b => { e with record := .held { h with blocker := b } }
    | .refuse c => { e with record := .refusing (refusingOf h c) }

/-- The pool after a judgment, position by position: each entry is judged against the HELD records that are ahead of it when
the event is over (R80). -/
theorem judgePool_at (o : Occasion) (older : List HeldRecord) {es : List PoolEntry} {k : Nat} {e : PoolEntry}
    (h : es[k]? = some e) : (judgePool s o older es).1[k]? =
      some (judgedEntry s o (older ++ heldRecords ((judgePool s o older es).1.take k)) e) := by
  induction es generalizing older k with
  | nil => simp at h
  | cons x rest ih =>
    obtain ⟨i, rec⟩ := x
    cases k with
    | zero =>
      obtain rfl : (⟨i, rec⟩ : PoolEntry) = e := by simpa using h
      cases rec with
      | refusing r => simp [judgePool, judgedEntry]
      | held g => cases hj : judge s o g older <;> simp [judgePool, judgedEntry, heldRecords, hj]
    | succ k =>
      simp only [List.getElem?_cons_succ] at h
      cases rec with
      | refusing r => simpa [judgePool, heldRecords] using ih older h
      | held g =>
        cases hj : judge s o g older with
        | keep b =>
          have := ih (older ++ [{ g with blocker := b }]) h
          rw [List.append_assoc] at this
          simpa [judgePool, heldRecords, hj] using this
        | refuse c => simpa [judgePool, heldRecords, hj] using ih older h

/-- The records refused are HELD records of the pool: the flush refuses those concerned alone, a slice boundary alone expires
(R80, R83, R86, R90). -/
theorem judgePool_refused (o : Occasion) (older : List HeldRecord) (es : List PoolEntry) :
    ∀ r ∈ (judgePool s o older es).2, r.1 ∈ heldRecords es ∧
      ((r.2 = .flushed ∧ flushedAt o r.1 = true) ∨ r.2 = .credit ∨ (o = .boundary ∧ r.2 = .expired)) := by
  induction es generalizing older with
  | nil => simp [judgePool]
  | cons e rest ih =>
    intro r hr
    unfold judgePool at hr
    have grow : ∀ x ∈ heldRecords rest, x ∈ heldRecords (e :: rest) := by
      intro x hx
      unfold heldRecords at hx ⊢
      rw [List.filterMap_cons]
      split
      · exact hx
      · exact List.mem_cons_of_mem _ hx
    split at hr
    · obtain ⟨h1, h2⟩ := ih older r hr
      exact ⟨grow _ h1, h2⟩
    · rename_i h he
      split at hr
      · obtain ⟨h1, h2⟩ := ih _ r hr
        exact ⟨grow _ h1, h2⟩
      · rename_i c hc
        rcases List.mem_cons.mp hr with rfl | hr
        · constructor
          · unfold heldRecords
            simp [he]
          · unfold judge at hc
            dsimp only at hc
            split at hc
            · simp_all
            · split at hc
              · simp_all
              · split at hc <;> simp_all
        · obtain ⟨h1, h2⟩ := ih _ r hr
          exact ⟨grow _ h1, h2⟩

/-- The records refused at one event are in pool order, oldest first (R82). -/
theorem judgePool_refused_sublist (o : Occasion) (older : List HeldRecord) (es : List PoolEntry) :
    ((judgePool s o older es).2.map fun r => r.1).Sublist (heldRecords es) := by
  induction es generalizing older with
  | nil => exact List.Sublist.refl _
  | cons e rest ih =>
    obtain ⟨i, rec⟩ := e
    cases rec with
    | refusing r => exact ih older
    | held h =>
      unfold judgePool
      dsimp only
      cases judge s o h older with
      | keep b => exact (ih _).cons h
      | refuse c => exact (ih _).cons_cons h

end Sys2Proof.Machine
end

