-- ==== Sys2Proof/Laws/Link.lean ====
section
/-! SUPPORT. The link: the traffic path does not read the Link Interface, and a whole command frame received by a selected
station is one execution at the Command Executor (R161, R162). -/

namespace Sys2Proof.Machine

variable (s : State) (L : LinkInterface)

/-! ### The traffic path does not read the link -/

theorem judge_withLink (o : Occasion) (h : HeldRecord) (older : List HeldRecord) :
    judge { s with link := L } o h older = judge s o h older := by cases s; rfl

theorem judgePool_withLink (o : Occasion) (older : List HeldRecord) (es : List PoolEntry) :
    judgePool { s with link := L } o older es = judgePool s o older es := by
  induction es generalizing older with
  | nil => rfl
  | cons e rest ih =>
    unfold judgePool
    simp only [judge_withLink, ih]

theorem recordRefusal_withLink (r : HeldRecord × Cause) :
    recordRefusal { s with link := L } r = { recordRefusal s r with link := L } := by cases s; rfl

theorem foldl_recordRefusal_withLink (rs : List (HeldRecord × Cause)) :
    rs.foldl recordRefusal { s with link := L } = { rs.foldl recordRefusal s with link := L } := by
  induction rs generalizing s with
  | nil => rfl
  | cons r rs ih => simp only [List.foldl_cons, recordRefusal_withLink, ih]

theorem reevaluatePool_withLink (o : Occasion) :
    reevaluatePool o { s with link := L } = { reevaluatePool o s with link := L } := by
  unfold reevaluatePool
  simp only [judgePool_withLink]
  exact foldl_recordRefusal_withLink { s with pool := (judgePool s o [] s.pool).1 } L _

theorem enterTagWait_withLink (h : Head) :
    enterTagWait h { s with link := L } = { enterTagWait h s with link := L } := by
  unfold enterTagWait; split <;> rfl

theorem enterSlotWait_withLink (h : Head) :
    enterSlotWait h { s with link := L } = { enterSlotWait h s with link := L } := by
  unfold enterSlotWait; split <;> (cases s; rfl)

theorem takeHeld_withLink (q : Request) (a : AccountIndex) (b : Blocker) (i : SlotIndex) :
    takeHeld q a b i { s with link := L } = { takeHeld q a b i s with link := L } := by cases s; rfl

theorem takeRefusing_withLink (q : Request) (c : Cause) (a : Option AccountIndex) (i : SlotIndex) :
    takeRefusing q c a i { s with link := L } = { takeRefusing q c a i s with link := L } := by
  cases s; cases a <;> rfl

theorem disposition_withLink (q : Request) : disposition { s with link := L } q = disposition s q := by cases s; rfl

theorem freeSlot_withLink : freeSlot { s with link := L } = freeSlot s := by cases s; rfl

theorem tagConflict_withLink (q : Request) : tagConflict { s with link := L } q = tagConflict s q := by cases s; rfl

theorem judgeHead_withLink : judgeHead { s with link := L } = { judgeHead s with link := L } := by
  unfold judgeHead
  simp only [disposition_withLink, freeSlot_withLink, tagConflict_withLink]
  split
  · rfl
  · split
    · exact enterTagWait_withLink s L _
    · split
      · rfl
      · rfl
      · split
        · exact takeHeld_withLink s L _ _ _ _
        · exact enterSlotWait_withLink s L _
      · split
        · exact takeRefusing_withLink s L _ _ _ _
        · exact enterSlotWait_withLink s L _

/-- Settling neither reads nor changes the link. -/
theorem settle_withLink : settle { s with link := L } = { settle s with link := L } := by
  unfold settle; rw [reevaluatePool_withLink, judgeHead_withLink]

theorem refuseRecords_withLink (x : Option AccountIndex) :
    refuseRecords x { s with link := L } = { refuseRecords x s with link := L } := by
  unfold refuseRecords
  exact reevaluatePool_withLink s L _

theorem releaseRecords_withLink (x : Option AccountIndex) :
    releaseRecords x { s with link := L } = { releaseRecords x s with link := L } := by cases s; rfl

/-! ### The executor and the link state -/

/-- The executor does not read the link state and the gap timer, and keeps them (R169). -/
theorem perform_setLinkState (st : LinkState) (c : Command) (p : List Byte) :
    perform c p (setLinkState st s) = (setLinkState st (perform c p s).1, (perform c p s).2) := by
  have hs : ∀ t : State, settle (setLinkState st t) = setLinkState st (settle t) := by
    intro t
    unfold setLinkState
    rw [settle_withLink]
    simp
  cases c
  case flush =>
    unfold perform performFlush
    cases hr : (fieldAt p 1 1 == 1)
    · exact Prod.ext (by
        simp only [Bool.false_eq_true, if_false]
        rw [← hs]
        congr 1) rfl
    · exact Prod.ext (by
        simp only [if_true]
        unfold setLinkState
        rw [refuseRecords_withLink, judgeHead_withLink]
        simp) rfl
  case setMode =>
    unfold perform performSetMode setGlobalMode
    simp only [← hs]
    exact Prod.ext (by congr 1) rfl
  case status => unfold perform performStatus; dsimp only; split <;> (cases s; rfl)
  case readCounters => unfold perform performReadCounters; dsimp only; split <;> (cases s; rfl)
  case commit =>
    unfold perform performCommit
    simp only [setLinkState_store]
    split <;> (cases s; rfl)
  case readCapture =>
    unfold perform performReadCapture
    simp only [setLinkState_capture]
    split <;> (cases s; rfl)
  all_goals (cases s; rfl)

/-- The executor under a change of link state (R169, R170). -/
theorem execute_setLinkState (st : LinkState) (code : Byte) (p : List Byte) :
    execute code p (setLinkState st s) = (setLinkState st (execute code p s).1, (execute code p s).2) := by
  unfold execute
  split
  · rfl
  · simp only [setLinkState_store]
    split
    · rfl
    · split
      · rfl
      · split
        · rfl
        · exact perform_setLinkState s st _ p

@[simp] theorem setLinkState_setLinkState (st st' : LinkState) :
    setLinkState st (setLinkState st' s) = setLinkState st s := by cases s; rfl

@[simp] theorem linkListens_setLinkState (st : LinkState) : linkListens (setLinkState st s) = linkListens s := by
  cases s; rfl

/-! ### A whole frame -/

/-- Payload bytes of a unicast frame accumulate one by one (R161). -/
theorem foldl_payload (hl : linkListens s = true) (bc : Bool) (code : Byte) (n : Nat) (sum : Byte)
    (pre rest : List Byte) (hn : pre.length + rest.length ≤ n) :
    rest.foldl (fun st b => dataEvent b st)
        (setLinkState (receivingState bc { code := code, length := some n, payload := pre, sum := sum }) s) =
      setLinkState
        (receivingState bc { code := code, length := some n, payload := pre ++ rest, sum := sum + rest.sum }) s := by
  induction rest generalizing pre sum with
  | nil => simp
  | cons b rest ih =>
    simp only [List.length_cons] at hn
    have hb : dataEvent b
        (setLinkState (receivingState bc { code := code, length := some n, payload := pre, sum := sum }) s) =
        setLinkState
          (receivingState bc { code := code, length := some n, payload := pre ++ [b], sum := sum + b }) s := by
      have hlt : pre.length < n := by omega
      cases bc <;> simp [dataEvent, receivingState, hl, frameByte, hlt]
    rw [List.foldl_cons, hb, ih _ _ (by simp; omega)]
    simp [List.sum_cons, BitVec.add_assoc]

/-- A whole frame, correctly checked, received by a station that waits for one, is its completion (R162, R163). -/
theorem receiveFrame_idle (hl : linkListens s = true) (bc : Bool) (hst : s.link.state = idleState bc)
    (code : Byte) (p : List Byte) (hp : p.length ≤ 48) :
    receiveFrame code p s =
      (if bc then completeBroadcast else completeUnicast) code p 0
        (setLinkState (receivingState bc
          { code := code, length := some p.length, payload := p,
            sum := code + BitVec.ofNat 8 p.length + p.sum }) s) := by
  have hlen : (BitVec.ofNat 8 p.length).toNat = p.length := by
    rw [BitVec.toNat_ofNat]; omega
  have h1 : dataEvent code s =
      setLinkState (receivingState bc { code := code, length := none, payload := [], sum := code }) s := by
    cases bc <;> simp_all [dataEvent, receivingState, idleState]
  have h2 : dataEvent (BitVec.ofNat 8 p.length)
      (setLinkState (receivingState bc { code := code, length := none, payload := [], sum := code }) s) =
      setLinkState (receivingState bc
        { code := code, length := some p.length, payload := [], sum := code + BitVec.ofNat 8 p.length }) s := by
    cases bc <;> simp [dataEvent, receivingState, hl, frameByte, hlen, Config.payloadMax, hp]
  have h3 := foldl_payload s hl bc code p.length (code + BitVec.ofNat 8 p.length) [] p (by simp)
  unfold receiveFrame commandFrame
  simp only [List.foldl_append, List.foldl_cons, List.foldl_nil, h1, h2, h3, List.nil_append]
  have hz : code + BitVec.ofNat 8 p.length + p.sum +
      checkByte (code :: BitVec.ofNat 8 p.length :: p) = 0 := by
    unfold checkByte
    simp only [List.sum_cons]
    generalize BitVec.ofNat 8 p.length = x
    generalize p.sum = y
    generalize code = z
    bv_omega
  generalize checkByte (code :: BitVec.ofNat 8 p.length :: p) = k at hz ⊢
  cases bc <;> simp [dataEvent, receivingState, hl, frameByte, hz]

/-- A SELECTED station that receives a whole checked frame executes its command and turns to the response (R162). -/
theorem receiveFrame_selected (hl : linkListens s = true) (hst : s.link.state = .selected) (code : Byte)
    (p : List Byte) (hp : p.length ≤ 48) :
    receiveFrame code p s = setLinkState (startResponse (execute code p s).2) (execute code p s).1 := by
  rw [receiveFrame_idle s hl false hst code p hp]
  simp [completeUnicast, execute_setLinkState]

/-- A station selected by broadcast that receives a whole checked frame executes it if it is write-type (R163). -/
theorem receiveFrame_broadcast (hl : linkListens s = true) (hst : s.link.state = .broadcast) (code : Byte)
    (p : List Byte) (hp : p.length ≤ 48) :
    receiveFrame code p s =
      setLinkState .broadcast
        (if isWriteTypeCode code = true then (execute code p s).1 else countLinkError s) := by
  rw [receiveFrame_idle s hl true hst code p hp]
  simp only [if_true, completeBroadcast, decide_true, Bool.true_and, execute_setLinkState]
  split
  · simp
  · cases s; rfl

/-- An UNSELECTED station ignores every frame (R160). -/
theorem receiveFrame_unselected (hst : s.link.state = .unselected) (code : Byte) (p : List Byte) :
    receiveFrame code p s = s := by
  have h : ∀ b, dataEvent b s = s := by
    intro b; unfold dataEvent; simp [hst]
  unfold receiveFrame
  induction commandFrame code p with
  | nil => rfl
  | cons b bs ih => simp [h, ih]

end Sys2Proof.Machine
end

