-- ==== Sys2Proof/Laws/Executor.lean ====
section
/-! SUPPORT. The Command Executor: a checked frame at a SELECTED station is one execution and one answer, the four checks in
one equation, and the fields of payloads byte by byte (R162, R170, R185). -/

namespace Sys2Proof.Machine

open Sys2Proof.Safety

variable {s : State}

theorem linkListens_of_listening (h : Listening s) : linkListens s = true := by
  unfold linkListens portsOpen; simp [h.1.1, h.1.2, h.2]

theorem clockRuns_of_clockRunning (h : ClockRunning s) : clockRuns s = true := by
  unfold clockRuns portsOpen; simp [h.1, h.2]

theorem clockRuns_of_not_clockRunning (h : ¬ClockRunning s) : clockRuns s = false := by
  unfold clockRuns portsOpen
  unfold ClockRunning at h
  cases h1 : s.power.refclk <;> cases h2 : s.power.phase <;> simp_all

theorem portsOpen_of_running (h : Running s) : portsOpen s = true := by
  unfold portsOpen; simp only [h]; rfl

/-- A checked frame at a SELECTED station is executed and answered at one event (R162, R169). -/
theorem receiveFrame_answering (h : SelectedListening s) {code : Byte} {p : List Byte} (hp : p.length ≤ 48) :
    receiveFrame code p s = answering (execute code p s).2.status (execute code p s).2.payload (execute code p s).1 := by
  rw [receiveFrame_selected s (linkListens_of_listening h.1) h.2 code p hp]; rfl

/-- The four checks of a known command, in order (R170). -/
theorem execute_code (c : Command) (p : List Byte) (s : State) : execute c.code p s =
    if p.length ≠ c.payloadLength then (s, replyOnly .badPayload)
    else if !payloadInRange c p then (s, replyOnly .range)
    else if c.refusedWhilePending && s.store.commitPending then (s, replyOnly .pending)
    else perform c p s := by cases c <;> rfl

/-- Every code of the table of R171 is one of these nineteen. -/
theorem commandOf_eq_none {code : Byte}
    (h : code ∉ ([0x01, 0x02, 0x10, 0x11, 0x12, 0x13, 0x14, 0x15, 0x16, 0x18, 0x19, 0x20, 0x21, 0x28, 0x30, 0x31, 0x38,
      0x39, 0x3A] : List Byte)) : commandOf code = none := by
  unfold commandOf
  rw [List.find?_eq_none]
  intro c _ hc
  apply h
  simp only [beq_iff_eq] at hc
  subst hc
  cases c <;> simp [Command.code]

@[simp] theorem commandOf_code (c : Command) : commandOf c.code = some c := by cases c <;> rfl

/-! ### Fields -/

theorem fieldAt_one (p : List Byte) (i : Nat) : fieldAt p i 1 = (p.getD i 0).toNat := by simp [fieldAt]

theorem fieldAt_two (p : List Byte) (i : Nat) :
    fieldAt p i 2 = (p.getD i 0).toNat + 256 * (p.getD (i + 1) 0).toNat := by simp [fieldAt]

theorem fieldAt_three (p : List Byte) (i : Nat) :
    fieldAt p i 3 = (p.getD i 0).toNat + 256 * ((p.getD (i + 1) 0).toNat + 256 * (p.getD (i + 2) 0).toNat) := by
  simp [fieldAt, Nat.add_assoc]

theorem fieldBytes_one (n : Nat) : fieldBytes 1 n = [BitVec.ofNat 8 n] := rfl

theorem fieldBytes_two (n : Nat) : fieldBytes 2 n = twoBytes n := rfl

theorem fieldBytes_three (n : Nat) : fieldBytes 3 n = threeBytes n := by
  simp [fieldBytes, threeBytes, Nat.div_div_eq_div_mul]

theorem fieldBytes_four (n : Nat) : fieldBytes 4 n = fourBytes n := by
  simp [fieldBytes, fourBytes, Nat.div_div_eq_div_mul]

/-- The parameters of an account lie at the offsets of R190. -/
theorem encodeAccountParams_eq (a : AccountParams) : encodeAccountParams a = accountBytes a := by
  unfold encodeAccountParams accountBytes
  simp only [fieldBytes_one, fieldBytes_two, twoBytes]
  cases a.mode <;> rfl

/-- The fields of a map entry lie at the offsets of R191. -/
theorem encodeMapEntry_eq (e : MapEntry) : encodeMapEntry e = mapBytes e := by
  unfold encodeMapEntry mapBytes
  simp only [fieldBytes_one, fieldBytes_three, threeBytes, encodeBool]
  cases e.filter <;> cases e.valid <;> rfl

/-- The globals lie at the offsets of R192. -/
theorem encodeGlobals_eq (c : Configuration) : encodeGlobals c = globalsBytes c := by
  unfold encodeGlobals globalsBytes
  simp only [fieldBytes_one, fieldBytes_two, twoBytes]
  cases c.unmapped <;> rfl

/-- A 16-bit operand is read back as it was written (R185). -/
theorem twoBytes_value (v : BitVec 16) :
    (BitVec.ofNat 8 v.toNat).toNat + 256 * (BitVec.ofNat 8 (v.toNat / 256)).toNat = v.toNat := by
  have := v.isLt
  simp only [BitVec.toNat_ofNat]; omega

/-- A 24-bit operand is read back as it was written (R185). -/
theorem threeBytes_value (v : BitVec 24) :
    (BitVec.ofNat 8 v.toNat).toNat + 256 * ((BitVec.ofNat 8 (v.toNat / 256)).toNat +
      256 * (BitVec.ofNat 8 (v.toNat / 65536)).toNat) = v.toNat := by
  have := v.isLt
  simp only [BitVec.toNat_ofNat]; omega

/-! ### Slots -/

/-- The record of a slot and its pool position, from the place of its entry in pool order (R75). -/
theorem slotRecord_of_split {i : SlotIndex} {front back : List PoolEntry} {r : PoolRecord} (hd : SlotsDistinct s)
    (hp : s.pool = front ++ ⟨i, r⟩ :: back) : slotRecord s i = some r ∧ poolPosition s i = front.length := by
  have hn : ∀ e ∈ front, e.slot ≠ i := by
    intro e he hc
    unfold SlotsDistinct at hd
    rw [hp] at hd
    simp only [List.map_append, List.map_cons, List.nodup_append] at hd
    exact hd.2.2 e.slot (List.mem_map_of_mem he) i (by simp) hc
  constructor
  · unfold slotRecord
    rw [hp, List.find?_append, List.find?_eq_none.mpr (by intro e he; simp [hn e he])]
    simp
  · unfold poolPosition
    rw [hp, List.findIdx_append]
    have : List.findIdx (fun e : PoolEntry => e.slot == i) front = front.length := by
      rw [List.findIdx_eq_length]
      intro e he; simp [hn e he]
    simp [this, List.findIdx_cons]

/-- The lowest-index FREE slot, by its own description (R78). -/
theorem freeSlot_eq_some {i : SlotIndex} (h : LowestFree s i) : freeSlot s = some i := by
  unfold freeSlot
  rw [List.find?_eq_some_iff_getElem]
  refine ⟨?_, i.val, by simp, by simp, ?_⟩
  · simp only [Bool.not_eq_true', List.any_eq_false]
    intro e he
    simpa using h.1 e he
  · intro j hj
    simp only [List.getElem_finRange, Bool.not_not, List.any_eq_true]
    obtain ⟨e, he, hs⟩ := h.2 ⟨j, by have := i.isLt; omega⟩ (by simpa [Fin.lt_def] using hj)
    exact ⟨e, he, by simp [hs]⟩

theorem freeSlot_eq_none (h : PoolFull s) : freeSlot s = none := by
  unfold freeSlot
  rw [List.find?_eq_none]
  intro j _
  obtain ⟨e, he, hs⟩ := h j
  simp only [Bool.not_eq_true', Bool.not_eq_false, List.any_eq_true]
  exact ⟨e, he, by simp [hs]⟩

/-- Tag conflict, by the pairs the regulator holds (R56). -/
theorem tagConflict_iff (r : Request) : tagConflict s r = true ↔ InTagConflict s r := by
  unfold tagConflict matchesOutstanding InTagConflict heldPairs
  simp only [Bool.or_eq_true, List.any_eq_true, beq_iff_eq, List.mem_append, List.mem_map, Bool.and_eq_true,
    Prod.mk.injEq]

end Sys2Proof.Machine
end

