-- ==== Sys2Proof/Laws/Grid.lean ====
section
/-! SUPPORT. The time grid and the publication: what a slice boundary and a restart leave in every field, said once. -/

namespace Sys2Proof.Machine

variable (s : State)

/-! ### Frames -/

@[simp] theorem publishIfPending_power : (publishIfPending s).power = s.power := by unfold publishIfPending; split <;> simp
@[simp] theorem publishIfPending_reg : (publishIfPending s).reg = s.reg := by unfold publishIfPending; split <;> simp
@[simp] theorem publishIfPending_hostPort : (publishIfPending s).hostPort = s.hostPort := by
  unfold publishIfPending; split <;> simp
@[simp] theorem publishIfPending_memPort : (publishIfPending s).memPort = s.memPort := by
  unfold publishIfPending; split <;> simp
@[simp] theorem publishIfPending_time : (publishIfPending s).time = s.time := by unfold publishIfPending; split <;> simp
@[simp] theorem publishIfPending_pool : (publishIfPending s).pool = s.pool := by unfold publishIfPending; split <;> simp
@[simp] theorem publishIfPending_outstanding : (publishIfPending s).outstanding = s.outstanding := by
  unfold publishIfPending; split <;> simp
@[simp] theorem publishIfPending_merger : (publishIfPending s).merger = s.merger := by
  unfold publishIfPending; split <;> simp
@[simp] theorem publishIfPending_capture : (publishIfPending s).capture = s.capture := by
  unfold publishIfPending; split <;> simp
@[simp] theorem publishIfPending_link : (publishIfPending s).link = s.link := by unfold publishIfPending; split <;> simp
@[simp] theorem publishIfPending_pending : (publishIfPending s).pending = s.pending := by
  unfold publishIfPending; split <;> simp
@[simp] theorem publishIfPending_mdi : (publishIfPending s).mdi = s.mdi := by
  unfold publishIfPending; split <;> simp

/-- The store after a publication, if a commit was pending (R126). -/
theorem publishIfPending_store : (publishIfPending s).store =
    if s.store.commitPending = true
    then { staged := s.store.staged, live := s.store.staged, commitPending := false } else s.store := by
  unfold publishIfPending; split <;> simp

/-- COMMIT_DONE is set exactly by a publication (R126). -/
theorem publishIfPending_alert : (publishIfPending s).alert =
    if s.store.commitPending = true
    then { s.alert with causes := s.alert.causes ||| 0x02 } else s.alert := by
  unfold publishIfPending; split <;> simp

/-! ### Accounts -/

/-- A publication changes an account by the clip to its new ceiling alone (R11). -/
theorem accountOf_publish (a : AccountIndex) :
    accountOf (publish s) a = clipTo s.store.staged.accounts[a].ceiling (accountOf s a) := by
  unfold publish
  simp only [accountOf_updateAllAccounts]
  rfl

/-- A grant changes an account by the amount of its slice, clipped (R42, R9). -/
theorem accountOf_grantAll (a : AccountIndex) :
    accountOf (grantAll s) a =
      grantTo (liveParams s a).ceiling (grantAmount (liveParams s a) s.time.slice) (accountOf s a) := by
  unfold grantAll
  simp only [accountOf_updateAllAccounts]

/-- Ageing changes an account by its peak wait alone (R16). -/
theorem accountOf_agePool (a : AccountIndex) :
    accountOf (agePool s) a = { accountOf s a with counters := { (accountOf s a).counters with
      peakWait := max (accountOf s a).counters.peakWait (greatestWait (s.pool.map ageEntry) a) } } := by
  unfold agePool
  simp only [accountOf_updateAllAccounts]
  rfl

/-! ### The slice boundary -/

theorem beforeExpiry_time : (beforeExpiry s).time = advanceSlice s.time := by
  unfold beforeExpiry; split <;> simp

theorem beforeExpiry_store : (beforeExpiry s).store =
    if atPeriodEnd s = true ∧ s.store.commitPending = true
    then { staged := s.store.staged, live := s.store.staged, commitPending := false } else s.store := by
  unfold beforeExpiry
  cases h : atPeriodEnd s
  · simp
  · simp [publishIfPending_store]

@[simp] theorem beforeExpiry_power : (beforeExpiry s).power = s.power := by unfold beforeExpiry; split <;> simp
@[simp] theorem beforeExpiry_reg : (beforeExpiry s).reg = s.reg := by unfold beforeExpiry; split <;> simp
@[simp] theorem beforeExpiry_hostPort : (beforeExpiry s).hostPort = s.hostPort := by unfold beforeExpiry; split <;> simp
@[simp] theorem beforeExpiry_memPort : (beforeExpiry s).memPort = s.memPort := by unfold beforeExpiry; split <;> simp
@[simp] theorem beforeExpiry_outstanding : (beforeExpiry s).outstanding = s.outstanding := by
  unfold beforeExpiry; split <;> simp
@[simp] theorem beforeExpiry_merger : (beforeExpiry s).merger = s.merger := by unfold beforeExpiry; split <;> simp
@[simp] theorem beforeExpiry_capture : (beforeExpiry s).capture = s.capture := by unfold beforeExpiry; split <;> simp
@[simp] theorem beforeExpiry_link : (beforeExpiry s).link = s.link := by unfold beforeExpiry; split <;> simp
@[simp] theorem beforeExpiry_pending : (beforeExpiry s).pending = s.pending := by unfold beforeExpiry; split <;> simp
@[simp] theorem beforeExpiry_mdi : (beforeExpiry s).mdi = s.mdi := by unfold beforeExpiry; split <;> simp

theorem beforeExpiry_alert : (beforeExpiry s).alert =
    if atPeriodEnd s = true ∧ s.store.commitPending = true
    then { s.alert with causes := s.alert.causes ||| 0x02 } else s.alert := by
  unfold beforeExpiry
  cases h : atPeriodEnd s
  · simp
  · simp [publishIfPending_alert]

/-- The pool as ageing leaves it (R85). -/
@[simp] theorem beforeExpiry_pool : (beforeExpiry s).pool = s.pool.map ageEntry := by
  unfold beforeExpiry; split <;> simp

/-- The account as the boundary's expiry judgment finds it: granted and clipped by the parameters live from the boundary on
(R45), peak wait raised (R16). -/
theorem accountOf_beforeExpiry (a : AccountIndex) :
    accountOf (beforeExpiry s) a = { accountOf s a with
      balance := min ((accountOf s a).balance +
        grantAmount (liveParams (beforeExpiry s) a) (advanceSlice s.time).slice) (liveParams (beforeExpiry s) a).ceiling
      counters := { (accountOf s a).counters with
        peakWait := max (accountOf s a).counters.peakWait (greatestWait (s.pool.map ageEntry) a) } } := by
  have hl : liveParams (beforeExpiry s) a =
      if atPeriodEnd s = true ∧ s.store.commitPending = true then s.store.staged.accounts[a] else liveParams s a := by
    unfold liveParams; rw [beforeExpiry_store]; split <;> rfl
  rw [hl]
  unfold beforeExpiry
  dsimp only
  cases h : atPeriodEnd s
  · rw [if_neg (by simp), accountOf_agePool, accountOf_grantAll]
    simp only [Bool.false_eq_true, false_and, if_false]
    rfl
  · rw [if_pos rfl, accountOf_agePool, accountOf_grantAll]
    unfold publishIfPending
    cases hc : s.store.commitPending
    · simp only [Bool.false_eq_true, if_false, and_false]
      rfl
    · simp only [and_self, if_true, grantAll_pool, publish_pool]
      rw [accountOf_publish]
      have hb : ∀ x g c : Nat, min (min x c + g) c = min (x + g) c := by intros; omega
      have hlp : liveParams (publish { s with time := advanceSlice s.time }) a = s.store.staged.accounts[a] := by
        unfold liveParams; simp
      simp only [hlp, publish_time, grantTo, clipTo]
      rw [hb]
      rfl

/-! ### The restart -/

/-- What a restart finds once a pending commit is published, the counts are cleared and the balances are filled (R137). -/
def restartFilled (s : State) : State :=
  let raised := publishIfPending { s with reg := { s.reg with regenHigh := true } }
  let restarted := { raised with time :=
    { cycle := 0, tick := 0, slice := 0, period := 0, dropsTick := tickFallsTogether s } }
  updateAllAccounts (fun a acc => fillTo (liveParams restarted a).ceiling acc) restarted

/-- The restart is its fill, settled (R137, R95). -/
theorem restartEvent_eq : restartEvent s = settle (restartFilled s) := rfl

@[simp] theorem restartFilled_power : (restartFilled s).power = s.power := by unfold restartFilled; simp
@[simp] theorem restartFilled_reg : (restartFilled s).reg = { s.reg with regenHigh := true } := by
  unfold restartFilled; simp
@[simp] theorem restartFilled_hostPort : (restartFilled s).hostPort = s.hostPort := by unfold restartFilled; simp
@[simp] theorem restartFilled_memPort : (restartFilled s).memPort = s.memPort := by unfold restartFilled; simp
@[simp] theorem restartFilled_time : (restartFilled s).time =
    { cycle := 0, tick := 0, slice := 0, period := 0, dropsTick := tickFallsTogether s } := by
  unfold restartFilled; simp
@[simp] theorem restartFilled_pool : (restartFilled s).pool = s.pool := by unfold restartFilled; simp
@[simp] theorem restartFilled_outstanding : (restartFilled s).outstanding = s.outstanding := by
  unfold restartFilled; simp
@[simp] theorem restartFilled_merger : (restartFilled s).merger = s.merger := by unfold restartFilled; simp
@[simp] theorem restartFilled_capture : (restartFilled s).capture = s.capture := by unfold restartFilled; simp
@[simp] theorem restartFilled_link : (restartFilled s).link = s.link := by unfold restartFilled; simp
@[simp] theorem restartFilled_pending : (restartFilled s).pending = s.pending := by unfold restartFilled; simp
@[simp] theorem restartFilled_mdi : (restartFilled s).mdi = s.mdi := by unfold restartFilled; simp

theorem restartFilled_store : (restartFilled s).store =
    if s.store.commitPending = true
    then { staged := s.store.staged, live := s.store.staged, commitPending := false } else s.store := by
  unfold restartFilled; simp [publishIfPending_store]

theorem restartFilled_alert : (restartFilled s).alert =
    if s.store.commitPending = true
    then { s.alert with causes := s.alert.causes ||| 0x02 } else s.alert := by
  unfold restartFilled; simp [publishIfPending_alert]

/-- Every balance is filled to the live ceiling, and nothing else of an account changes (R12). -/
theorem accountOf_restartFilled (a : AccountIndex) :
    accountOf (restartFilled s) a =
      { accountOf s a with balance := (liveParams (restartFilled s) a).ceiling } := by
  have hl : liveParams (restartFilled s) a =
      if s.store.commitPending = true then s.store.staged.accounts[a] else liveParams s a := by
    unfold liveParams; rw [restartFilled_store]; split <;> rfl
  rw [hl]
  unfold restartFilled publishIfPending
  simp only [accountOf_updateAllAccounts]
  cases hc : s.store.commitPending
  · simp only [Bool.false_eq_true, if_false]; rfl
  · simp only [if_true, fillTo]
    have e : ∀ (t : State) (x : TimeBase), accountOf { t with time := x } a =
      accountOf t a := fun _ _ => rfl
    have e2 : ∀ (t : State) (x : TimeBase), liveParams { t with time := x } a =
      liveParams t a := fun _ _ => rfl
    rw [e, e2, accountOf_publish]
    have hlp : liveParams (publish { s with reg := { s.reg with regenHigh := true } }) a = s.store.staged.accounts[a] := by
      unfold liveParams; simp
    rw [hlp]
    rfl

end Sys2Proof.Machine
end

