-- ==== Sys2Proof/Laws/Management.lean ====
section
/-! SUPPORT. The management rows as frames: which frame a row is, and what a frame leaves of the queue and the power. -/

namespace Sys2Proof.Machine

open Sys2Proof.Safety

/-- The command and the payload of the frame a management row stands for; none for every other row (log 5). -/
def managementFrame : Instr → Option (Command × List Byte)
  | .identify => some (.identify, [])
  | .statusKeep => some (.status, [0])
  | .statusClear => some (.status, [1])
  | .readAccount index copy => some (.readAccount, [index, copy])
  | .writeAccount index mode quantum extra ceiling weight cap maxWait priority =>
      some (.writeAccount, [index, mode] ++ twoBytes quantum.toNat ++ [extra] ++ twoBytes ceiling.toNat
        ++ [weight, cap, maxWait, priority])
  | .readMap index copy => some (.readMap, [index, copy])
  | .writeMap index valid idValue idMask basePage limitPage filter account =>
      some (.writeMap, [index, valid, idValue, idMask] ++ fieldBytes 3 basePage.toNat ++ fieldBytes 3 limitPage.toNat
        ++ [filter, account])
  | .readGlobals => some (.readGlobals, [])
  | .writeGlobals prescale sliceLength unmapped =>
      some (.writeGlobals, twoBytes prescale.toNat ++ twoBytes sliceLength.toNat ++ [unmapped])
  | .copyLiveToStaged => some (.copyLiveToStaged, [])
  | .commit => some (.commit, [])
  | .cancelCommit => some (.cancelCommit, [])
  | .readCountersKeep index => some (.readCounters, [index, 0])
  | .readCountersClear index => some (.readCounters, [index, 1])
  | .readHold slot => some (.readHold, [slot])
  | .flushRelease selector => some (.flush, [selector, 0])
  | .flushRefuse selector => some (.flush, [selector, 1])
  | .readCapture => some (.readCapture, [])
  | .clearCapture => some (.clearCapture, [])
  | .setMode mode => some (.setMode, [mode])
  | .ackAlert mask => some (.ackAlert, [mask])
  | .setAlertEnable mask => some (.setAlertEnable, [mask])
  | .offer _ | .takeHeld | .takeRefusing | .mPortReadyEvent | .memoryResponse _ | .hPortReadyEvent | .tick
  | .sliceBoundary | .periodBoundary | .expiry | .publication | .regulationRestart | .regenFall | .powerOnReset _
  | .initialisation _ _ | .initialisationComplete _ | .selectCharacter _ | .dataCharacter _ | .framingError
  | .frameTimeout | .linkBreak | .responseTurnaround | .responseEnd | .unknownCommand _ _ | .refclkStop
  | .refclkResume | .endOfBreak => none

/-- A management row is the arrival of its frame (log 5). -/
theorem exec_of_managementFrame {i : Instr} {c : Command} {p : List Byte} (h : managementFrame i = some (c, p))
    (s : State) : exec i s = .next (receiveFrame c.code p s) := by
  cases i <;> simp only [managementFrame, reduceCtorEq, Option.some.injEq, Prod.mk.injEq] at h <;>
    (obtain ⟨rfl, rfl⟩ := h; rfl)

/-- Every management row has the payload length its command takes (R171). -/
theorem managementFrame_length {i : Instr} {c : Command} {p : List Byte} (h : managementFrame i = some (c, p)) :
    p.length = c.payloadLength := by
  cases i <;> simp only [managementFrame, reduceCtorEq, Option.some.injEq, Prod.mk.injEq] at h <;>
    (obtain ⟨rfl, rfl⟩ := h; rfl)

/-- No command takes more than 12 payload bytes (R171). -/
theorem Command.payloadLength_le (c : Command) : c.payloadLength ≤ 12 := by cases c <;> decide

/-- The read-type rows are the frames of read-type commands, the write-type rows those of the others (R171). -/
theorem isRow_iff (i : Instr) :
    (isWriteRow i = true ↔ ∃ c p, managementFrame i = some (c, p) ∧ c.isWriteType = true) ∧
      (isReadRow i = true ↔ ∃ c p, managementFrame i = some (c, p) ∧ c.isWriteType = false) := by
  cases i <;> simp [isWriteRow, isReadRow, managementFrame, Command.isWriteType]

/-- A receiver that takes no character takes no frame (R157, R159, R168). -/
theorem receiveFrame_notListening {s : State} (h : linkListens s = false) (code : Byte) (p : List Byte) :
    receiveFrame code p s = s := by
  have hd : ∀ b, dataEvent b s = s := by intro b; unfold dataEvent; simp [h]
  unfold receiveFrame
  induction commandFrame code p with
  | nil => rfl
  | cons b bs ih => simp [hd, ih]

end Sys2Proof.Machine
end

