-- ==== Sys2Proof/Laws/Operands.lean ====
section
/-! SUPPORT. Byte ranges on 32-bit unsigned addresses as natural numbers (R52, R23). -/

namespace Sys2Proof.Machine

/-- The last byte of a byte range, which wraps only past the address space (R52). -/
theorem lastByte_toNat {r : Request} (h1 : 1 ≤ r.len) (h2 : r.len ≤ 16) :
    (lastByte r).toNat = (r.addr.toNat + 8 * r.len - 1) % 4294967296 := by
  have t1 : (1 : Addr).toNat = 1 := rfl
  unfold lastByte
  rw [BitVec.toNat_sub, BitVec.toNat_add, BitVec.toNat_ofNat, t1]
  have := r.addr.isLt
  generalize r.addr.toNat = x at *
  have e : 8 * r.len % 2 ^ 32 = 8 * r.len := Nat.mod_eq_of_lt (by omega)
  rw [e]
  norm_num
  omega

/-- The page of an address is the address divided by 4096 (R23). -/
theorem pageOf_toNat (a : Addr) : (pageOf a).toNat = a.toNat / 4096 := by
  have := a.isLt
  unfold pageOf
  simp only [BitVec.extractLsb'_toNat, Nat.shiftRight_eq_div_pow]
  omega

end Sys2Proof.Machine
end

