-- ==== Sys2Proof/Laws/Settle.lean ====
section
/-! SUPPORT. What settling leaves: the output of the Host Port, the slots, every set alert cause; and the settling at which no
record is refused. -/

namespace Sys2Proof.Machine

open Sys2Proof.Safety

variable {s t u : State}

/-- Two states are equal when their fields are. -/
theorem State.eq_of_fields (h1 : s.power = t.power) (h2 : s.reg = t.reg) (h3 : s.hostPort = t.hostPort)
    (h4 : s.memPort = t.memPort) (h5 : s.accounts = t.accounts) (h6 : s.time = t.time) (h7 : s.pool = t.pool)
    (h8 : s.outstanding = t.outstanding) (h9 : s.merger = t.merger) (h10 : s.store = t.store)
    (h11 : s.capture = t.capture) (h12 : s.alert = t.alert) (h13 : s.link = t.link) (h14 : s.pending = t.pending)
    (h15 : s.mdi = t.mdi) : s = t := by
  cases s; cases t; simp_all

theorem HostPort.eq_with_sent {h h' : HostPort} (e : h.sent = h'.sent) : h = { h with sent := h'.sent } := by
  cases h; simp_all

/-- The judgment of the head sends nothing to the host (R53). -/
theorem judgeHead_sent (s : State) : (judgeHead s).hostPort.sent = s.hostPort.sent := by
  unfold judgeHead
  split
  · rfl
  · split
    · unfold enterTagWait; split <;> rfl
    · split
      · rfl
      · rfl
      · split
        · simp
        · unfold enterSlotWait; split <;> simp
      · split
        · unfold takeRefusing; split <;> simp
        · unfold enterSlotWait; split <;> simp

@[simp] theorem settle_sent (s : State) : (settle s).hostPort.sent = s.hostPort.sent := by
  unfold settle; rw [judgeHead_sent]; simp

/-- With no head offered, the judgment of the head does nothing. -/
theorem judgeHead_of_no_head (h : s.hostPort.head = none) : judgeHead s = s := by
  unfold judgeHead; simp [h]

/-- With no head offered, settling keeps every record in its slot and place (R75). -/
theorem settle_poolSlots (h : s.hostPort.head = none) : poolSlots (settle s) = poolSlots s := by
  unfold settle
  rw [judgeHead_of_no_head (by simpa using h)]
  simp [poolSlots, judgePool_slots]

/-! ### Set causes stay set -/

/-- Every cause set stays set, and the enables stay (R150, R152). -/
def CausesKept (s t : State) : Prop :=
  (∀ k, s.alert.causes.getLsbD k = true → t.alert.causes.getLsbD k = true) ∧ t.alert.enables = s.alert.enables

theorem CausesKept.refl (s : State) : CausesKept s s := ⟨fun _ h => h, rfl⟩

theorem CausesKept.trans (h : CausesKept s t) (h' : CausesKept t u) : CausesKept s u :=
  ⟨fun k hk => h'.1 k (h.1 k hk), h'.2.trans h.2⟩

theorem CausesKept.of_eq (h : t.alert = s.alert) : CausesKept s t := by
  unfold CausesKept; rw [h]; exact ⟨fun _ h => h, rfl⟩

/-- Kept causes, as one equation on the mask. -/
theorem CausesKept.and_eq (h : CausesKept s t) : s.alert.causes &&& t.alert.causes = s.alert.causes := by
  apply BitVec.eq_of_getLsbD_eq
  intro i hi
  rw [BitVec.getLsbD_and]
  cases hb : s.alert.causes.getLsbD i
  · rfl
  · simp [h.1 i hb]

theorem causesKept_setCause (c : AlertCause) (s : State) : CausesKept s (setCause c s) := by
  unfold CausesKept
  simp only [setCause_alert, BitVec.getLsbD_or, Bool.or_eq_true, and_true]
  intro k h; exact .inl h

theorem causesKept_recordRefusal (r : HeldRecord × Cause) (s : State) : CausesKept s (recordRefusal s r) := by
  unfold recordRefusal captureAdd
  exact (CausesKept.of_eq (by simp)).trans (causesKept_setCause _ _)

theorem causesKept_foldl_recordRefusal (rs : List (HeldRecord × Cause)) (s : State) :
    CausesKept s (rs.foldl recordRefusal s) := by
  induction rs generalizing s with
  | nil => exact .refl s
  | cons r rs ih => exact (causesKept_recordRefusal r s).trans (ih _)

theorem causesKept_reevaluatePool (o : Occasion) (s : State) : CausesKept s (reevaluatePool o s) := by
  unfold reevaluatePool
  exact CausesKept.trans (CausesKept.of_eq (t := { s with pool := (judgePool s o [] s.pool).1 }) rfl)
    (causesKept_foldl_recordRefusal _ _)

theorem causesKept_refuseRecords (x : Option AccountIndex) (s : State) : CausesKept s (refuseRecords x s) := by
  unfold refuseRecords
  exact causesKept_reevaluatePool _ s

theorem causesKept_takeRefusing (q : Request) (c : Cause) (a : Option AccountIndex) (i : SlotIndex) (s : State) :
    CausesKept s (takeRefusing q c a i s) := by
  unfold takeRefusing captureAdd
  cases a with
  | none => exact (CausesKept.of_eq (by simp)).trans (causesKept_setCause _ _)
  | some a => exact (CausesKept.of_eq (by simp)).trans (causesKept_setCause _ _)

theorem causesKept_enterSlotWait (h : Head) (s : State) : CausesKept s (enterSlotWait h s) := by
  unfold enterSlotWait
  split
  · exact .refl s
  · exact CausesKept.trans (CausesKept.of_eq (by simp)) (causesKept_setCause _ _)

theorem causesKept_judgeHead (s : State) : CausesKept s (judgeHead s) := by
  unfold judgeHead
  split
  · exact .refl s
  · split
    · exact .of_eq (by simp)
    · split
      · exact .refl s
      · exact .refl s
      · split
        · exact .of_eq (by simp)
        · exact causesKept_enterSlotWait _ s
      · split
        · exact causesKept_takeRefusing ..
        · exact causesKept_enterSlotWait _ s

theorem causesKept_settle (s : State) : CausesKept s (settle s) :=
  (causesKept_reevaluatePool .change s).trans (causesKept_judgeHead _)

/-! ### A settling that refuses nothing -/

/-- Where no HELD record can be refused for credit, a judgment refuses none: REFUSING records stay, HELD records keep all
but the blocker, and every blocker is a result of the admission test (R80, R83). -/
theorem judgePool_quiet (s : State) (es : List PoolEntry)
    (hes : ∀ h ∈ heldRecords es, ∀ older,
      creditRefused s h (admissionTest s h.account h.exempt h.req older) = false) (older : List HeldRecord) :
    (judgePool s .change older es).2 = [] ∧
      refusingRecords (judgePool s .change older es).1 = refusingRecords es ∧
      (heldRecords (judgePool s .change older es).1).map heldFields = (heldRecords es).map heldFields ∧
      ∀ h ∈ heldRecords (judgePool s .change older es).1,
        ∃ older, h.blocker = admissionTest s h.account h.exempt h.req older := by
  induction es generalizing older with
  | nil => simp [judgePool, heldRecords, refusingRecords]
  | cons e rest ih =>
    have hg : ∀ h ∈ heldRecords rest, h ∈ heldRecords (e :: rest) := by
      intro h hh
      unfold heldRecords at *
      rw [List.filterMap_cons]; split
      · exact hh
      · exact List.mem_cons_of_mem _ hh
    have ih' := fun older => ih (fun h hh => hes h (hg h hh)) older
    obtain ⟨slot, rec⟩ := e
    cases rec with
    | refusing r =>
      have := ih' older
      simp only [judgePool]
      simp only [heldRecords, refusingRecords, List.filterMap_cons] at this ⊢
      refine ⟨this.1, by rw [this.2.1], this.2.2.1, this.2.2.2⟩
    | held h =>
      have hj : judge s .change h older = .keep (admissionTest s h.account h.exempt h.req older) := by
        unfold judge
        simp [flushedAt, hes h (by simp [heldRecords]) older]
      have := ih' (older ++ [{ h with blocker := admissionTest s h.account h.exempt h.req older }])
      simp only [judgePool, hj]
      simp only [heldRecords, refusingRecords, List.filterMap_cons] at this ⊢
      refine ⟨this.1, this.2.1, ?_, ?_⟩
      · simp only [List.map_cons, this.2.2.1, heldFields]
      · intro x hx
        rcases List.mem_cons.mp hx with rfl | hx
        · exact ⟨older, rfl⟩
        · exact this.2.2.2 x hx

/-- Settling with no head offered, where no HELD record can be refused for credit, changes blockers alone. -/
theorem settle_quiet (hh : s.hostPort.head = none)
    (h0 : ∀ h ∈ heldRecords s.pool, ∀ older,
      creditRefused s h (admissionTest s h.account h.exempt h.req older) = false) :
    settle s = { s with pool := (judgePool s .change [] s.pool).1 } := by
  unfold settle reevaluatePool
  simp only [(judgePool_quiet s s.pool h0 []).1, List.foldl_nil]
  exact judgeHead_of_no_head hh

/-- A request of at most 16 beats costs at most 16 × W (R4). -/
theorem cost_le {p : AccountParams} {r : Request} (hw : p.weight = 1 ∨ p.weight = 2) (hl : r.len ≤ 16) :
    cost p r ≤ 16 * p.weight := by
  unfold cost
  cases r.dir <;> rcases hw with h | h <;> simp [h] <;> omega

/-- A configuration that passes validation has no faulty account (R123). -/
theorem accountFaulty_of_firstFault {c : Configuration} (h : firstFault c = none) (a : AccountIndex) :
    accountFaulty c.accounts[a] = false := by
  unfold firstFault at h
  split at h
  · simp at h
  · rename_i hf
    rw [List.find?_eq_none] at hf
    simpa using hf a (List.mem_finRange a)

/-! ### The slice boundary -/

theorem sliceBoundaryEvent_store (s : State) : (sliceBoundaryEvent s).store = (beforeExpiry s).store := by
  unfold sliceBoundaryEvent; simp

theorem sliceBoundaryEvent_time (s : State) : (sliceBoundaryEvent s).time = advanceSlice s.time := by
  unfold sliceBoundaryEvent; simp [beforeExpiry_time]

/-- The boundary's refusals and the taking of the head change no balance and no outstanding count. -/
theorem sliceBoundaryEvent_balance (s : State) (a : AccountIndex) :
    (accountOf (sliceBoundaryEvent s) a).balance = (accountOf (beforeExpiry s) a).balance ∧
      (accountOf (sliceBoundaryEvent s) a).outstanding = (accountOf (beforeExpiry s) a).outstanding := by
  unfold sliceBoundaryEvent
  have h1 := judgeHead_balance (reevaluatePool .boundary (beforeExpiry s)) a
  have h2 := reevaluatePool_balance (beforeExpiry s) .boundary a
  exact ⟨h1.1.trans h2.1, h1.2.trans h2.2⟩

/-- A boundary is a period boundary when the slice index returns to 0 (R37). -/
theorem atPeriodEnd_iff (s : State) : atPeriodEnd s = true ↔ (s.time.slice + 1) % 32 = 0 := by
  unfold atPeriodEnd advanceSlice; simp [Config.slicesPerPeriod]

end Sys2Proof.Machine
end

