-- ==== Sys2Proof/Laws/Ports.lean ====
section
/-! SUPPORT. Issue and delivery: what an issue does to the accounts, what settling leaves of their issue counters, and the
refusal candidate. -/

namespace Sys2Proof.Machine

open Sys2Proof.Safety

variable (s : State)

/-- An issue charges and counts one account, and leaves the others (R6 to R8). -/
theorem accountOf_issueRequest (q : Request) (a : AccountIndex) (x : Bool) (b : AccountIndex) :
    accountOf (issueRequest q a x s) b =
      if a = b
      then countIssue q.len (chargeAccount (restrained s a && !x) (cost (liveParams s a) q) (accountOf s a))
      else accountOf s b := by
  have : accountOf (issueRequest q a x s) b =
      accountOf (updateAccount a (fun acc =>
        countIssue q.len (chargeAccount (restrained s a && !x) (cost (liveParams s a) q) acc)) s) b :=
    accountOf_congr rfl b
  rw [this, accountOf_updateAccount]

/-- The counters that only issues move: issued requests, issued beats, overdraw credits (R15). -/
def issueCounters (acc : Account) : Nat × Nat × Nat :=
  (acc.counters.issuedRequests, acc.counters.issuedBeats, acc.counters.overdrawCredits)

theorem recordRefusal_issueCounters (r : HeldRecord × Cause) (a : AccountIndex) :
    issueCounters (accountOf (recordRefusal s r) a) = issueCounters (accountOf s a) := by
  have h : accountOf (recordRefusal s r) a =
      accountOf (updateAccount r.1.account (fun acc => countRefusal r.2 (countUnhold acc)) s) a :=
    accountOf_congr (by unfold recordRefusal; simp) a
  rw [h, accountOf_updateAccount]
  split
  · rename_i ha; subst ha; cases r.2 <;> rfl
  · rfl

theorem reevaluatePool_issueCounters (o : Occasion) (a : AccountIndex) :
    issueCounters (accountOf (reevaluatePool o s) a) = issueCounters (accountOf s a) := by
  have fold : ∀ (rs : List (HeldRecord × Cause)) (u : State),
      issueCounters (accountOf (rs.foldl recordRefusal u) a) = issueCounters (accountOf u a) := by
    intro rs
    induction rs with
    | nil => intro u; rfl
    | cons r rs ih => intro u; exact (ih _).trans (recordRefusal_issueCounters u r a)
  unfold reevaluatePool
  exact fold _ _

theorem judgeHead_issueCounters (a : AccountIndex) :
    issueCounters (accountOf (judgeHead s) a) = issueCounters (accountOf s a) := by
  have key : (judgeHead s).accounts = s.accounts ∨
      ∃ b f, (judgeHead s).accounts = (updateAccount b f s).accounts ∧
        ∀ acc : Account, issueCounters (f acc) = issueCounters acc := by
    unfold judgeHead
    split
    · exact .inl rfl
    · split
      · left; simp
      · split
        · exact .inl rfl
        · exact .inl rfl
        · rename_i x b _
          split
          · exact .inr ⟨x, countHold, by simp, fun _ => rfl⟩
          · left; simp
        · rename_i c x _
          split
          · cases x with
            | none => exact .inl (by unfold takeRefusing; simp)
            | some x =>
              exact .inr ⟨x, countRefusal c, by unfold takeRefusing; simp; rfl, fun acc => by cases c <;> rfl⟩
          · left; simp
  rcases key with h | ⟨b, f, h, hf⟩
  · rw [accountOf_congr h]
  · rw [accountOf_congr h, accountOf_updateAccount]
    split
    · rename_i hb; subst hb; exact hf _
    · rfl

/-- Settling issues nothing and counts no issue. -/
theorem settle_issueCounters (a : AccountIndex) :
    issueCounters (accountOf (settle s) a) = issueCounters (accountOf s a) :=
  (judgeHead_issueCounters _ a).trans (reevaluatePool_issueCounters s .change a)

/-- The refusal candidate is the first REFUSING record of pool order (R97). -/
theorem oldestRefusing_of_split {front back : List PoolEntry} {i : SlotIndex} {f : RefusingRecord}
    {pool : List PoolEntry} (h : pool = front ++ ⟨i, .refusing f⟩ :: back) (hf : refusingRecords front = []) :
    oldestRefusing pool = some (i, f) := by
  subst h
  induction front with
  | nil => simp [oldestRefusing]
  | cons e rest ih =>
    obtain ⟨slot, rec⟩ := e
    cases rec with
    | refusing r => simp [refusingRecords] at hf
    | held g =>
      have hf' : refusingRecords rest = [] := by simpa [refusingRecords] using hf
      simpa [oldestRefusing] using ih hf'

/-- No refusal candidate means no REFUSING record. -/
theorem oldestRefusing_eq_none_iff (pool : List PoolEntry) : oldestRefusing pool = none ↔ refusingRecords pool = [] := by
  induction pool with
  | nil => simp [oldestRefusing, refusingRecords]
  | cons e rest ih =>
    obtain ⟨slot, rec⟩ := e
    cases rec with
    | refusing r => simp [oldestRefusing, refusingRecords]
    | held g => simpa [oldestRefusing, refusingRecords] using ih

/-- A refusal candidate splits the pool at its entry (R97). -/
theorem oldestRefusing_split {pool : List PoolEntry} {i : SlotIndex} {f : RefusingRecord}
    (h : oldestRefusing pool = some (i, f)) :
    ∃ front back, pool = front ++ ⟨i, .refusing f⟩ :: back ∧ refusingRecords front = [] := by
  induction pool with
  | nil => simp [oldestRefusing] at h
  | cons e rest ih =>
    obtain ⟨slot, rec⟩ := e
    cases rec with
    | refusing r =>
      simp only [oldestRefusing, List.findSome?_cons, Option.some.injEq, Prod.mk.injEq] at h
      obtain ⟨rfl, rfl⟩ := h
      exact ⟨[], rest, rfl, by simp [refusingRecords]⟩
    | held g =>
      have h' : oldestRefusing rest = some (i, f) := by simpa [oldestRefusing] using h
      obtain ⟨front, back, hp, hf⟩ := ih h'
      exact ⟨⟨slot, .held g⟩ :: front, back, by simp [hp], by simpa [refusingRecords] using hf⟩

end Sys2Proof.Machine
end

