-- ==== Sys2Proof/Laws/Receiver.lean ====
section
/-! SUPPORT. MDI and one REFCLK cycle of the link: what a quiet line does, and what a cycle of the grid and a boundary leave of
the link. -/

namespace Sys2Proof.Machine

open Sys2Proof.Safety

variable {s : State}

/-- The bit time, by the table of R155. -/
theorem bitTime_eq (rate : BitVec 2) : Config.bitTime rate = [16, 64, 256, 1024].getD rate.toNat 0 := by
  unfold Config.bitTime
  have := rate.isLt
  interval_cases rate.toNat <;> rfl

theorem bitTime_pos (rate : BitVec 2) : 16 ≤ Config.bitTime rate := by
  unfold Config.bitTime; split <;> decide

/-- The character time, by the table of R155. -/
theorem characterTime_eq (rate : BitVec 2) :
    Config.characterTime rate = 11 * [16, 64, 256, 1024].getD rate.toNat 0 := by
  unfold Config.characterTime; rw [bitTime_eq]

/-- On an empty queue a step is one REFCLK cycle (log 3). -/
theorem step_idle (h : s.pending = []) : step s = .next (refclkCycle s) := by
  unfold step
  split
  · rfl
  · simp_all

/-- A quiet line ends a break and makes the receiver ready (R156, R157). -/
theorem mdiEdge_quiet (h : ClockRunning s) (hq : LineQuiet s) :
    mdiEdge s = { s with link := { s.link with receiver := .ready, inBreak := false } } := by
  obtain ⟨h1, h2⟩ := h
  obtain ⟨h3, h4⟩ := hq
  unfold mdiEdge mdiLevel endOfBreakEvent
  rw [portsOpen_of_running h1, h3]
  cases hb : s.link.inBreak <;> cases hr : s.link.receiver <;> simp [hb, hr, startBitBegun] at h4 ⊢ <;>
    simp [hb, receiverEdge, handleLine, setReceiver, h3]

/-- A cycle of a quiet line receives nothing (R156). -/
theorem mdiCycle_quiet (h3 : s.mdi = []) (h4 : s.link.receiver = .ready) (h5 : s.link.inBreak = false) :
    mdiCycle s = { s with link := { s.link with lowFor := 0 } } := by
  unfold mdiCycle mdiLevel
  have : ¬ (2 * Config.characterTime s.power.rate ≤ 0) := by
    have := bitTime_pos s.power.rate
    unfold Config.characterTime
    omega
  simp [h3, h4, h5, this, receiverCycle, handleLine, setReceiver]

/-- The end of a gap changes neither the levels to come nor the receiver, the character on MDO or the power (R164). -/
theorem gapCheck_frame (s : State) : (gapCheck s).mdi = s.mdi ∧ (gapCheck s).link.receiver = s.link.receiver ∧
    (gapCheck s).link.inBreak = s.link.inBreak ∧ (gapCheck s).power = s.power ∧ (gapCheck s).link.mdo = s.link.mdo := by
  unfold gapCheck frameTimeoutEvent
  repeat' split
  all_goals simp [setLinkState, countLinkError, setCause]

/-- The timers of the link keep the levels to come, the receiver and the power. -/
theorem linkTimers_frame (s : State) : (linkTimers s).mdi = s.mdi ∧ (linkTimers s).link.receiver = s.link.receiver ∧
    (linkTimers s).link.inBreak = s.link.inBreak ∧ (linkTimers s).power = s.power := by
  unfold linkTimers gapCycle nextCharacter
  dsimp only
  repeat' split
  all_goals simp [beginResponse, endResponse]

/-- What the begin of a quiet cycle and the timers bring. -/
def quietTimers (s : State) : State := linkTimers (gapCheck { s with link := { s.link with receiver := .ready } })

/-- At a station that listens, a REFCLK cycle of a quiet line is its timers, and the gap at its begin and at its end. -/
theorem linkCycle_quiet (h : Listening s) (hq : LineQuiet s) :
    linkCycle s = gapCheck { quietTimers s with link := { (quietTimers s).link with lowFor := 0 } } := by
  have edge : ∀ u : State, Listening u → LineQuiet u →
      mdiEdge u = { u with link := { u.link with receiver := .ready } } := by
    intro u hu hv
    rw [mdiEdge_quiet hu.1 hv]
    have := hu.2
    cases u; rename LinkInterface => l; cases l; simp_all
  unfold linkCycle linkMoment
  rw [edge s h hq]
  obtain ⟨g1, g2, g3, g4, -⟩ := gapCheck_frame { s with link := { s.link with receiver := .ready } }
  obtain ⟨t1, t2, t3, t4⟩ := linkTimers_frame (gapCheck { s with link := { s.link with receiver := .ready } })
  have e1 : (quietTimers s).mdi = [] := by rw [quietTimers, t1, g1]; exact hq.1
  have e2 : (quietTimers s).link.receiver = .ready := by rw [quietTimers, t2, g2]
  have e3 : (quietTimers s).link.inBreak = false := by rw [quietTimers, t3, g3]; exact h.2
  have e4 : (quietTimers s).power = s.power := by rw [quietTimers, t4, g4]
  have e := mdiCycle_quiet e1 e2 e3
  rw [quietTimers] at e e2 ⊢
  rw [e, edge]
  · congr 1
    generalize linkTimers (gapCheck { s with link := { s.link with receiver := .ready } }) = u at e2
    cases u; rename LinkInterface => l; cases l; simp_all
  · exact ⟨⟨by rw [quietTimers] at e4; simp [e4, h.1.1], by rw [quietTimers] at e4; simp [e4, h.1.2]⟩,
      by rw [quietTimers] at e3; simp [e3]⟩
  · exact ⟨by rw [quietTimers] at e1; simp [e1], by simp [e2, startBitBegun]⟩

/-- A cycle of the grid keeps the link. -/
@[simp] theorem gridCycle_link (s : State) : (gridCycle s).link = s.link := by
  unfold gridCycle tickEvent pastRestart sliceBoundaryEvent
  repeat' split
  all_goals simp

/-- On an empty queue a step brings the link one REFCLK cycle (log 3). -/
theorem step_idle_link {t : State} (h : ClockRunning s) (hp : s.pending = []) (hs : step s = .next t) :
    t.link = (linkCycle s).link := by
  rw [step_idle hp] at hs
  simp only [Host.Outcome.next.injEq] at hs
  subst hs
  unfold refclkCycle
  rw [clockRuns_of_clockRunning h]
  simp

end Sys2Proof.Machine
end

