-- ==== Sys2Proof/Tests/Slice0.lean ====
section
/-! SUPPORT. Tests by `decide`, each from a worked example or a table of spec/ named in its comment, and for every statement
with hypotheses a named witness that meets them, clause by clause. -/

namespace Sys2Proof.Tests

open Sys2Proof.Machine Sys2Proof.Safety

set_option Elab.async false

/-! ### Small states -/

/-- The state a command answers. -/
def ran (i : Instr) (s : State) : State :=
  match exec i s with
  | .next t => t
  | .fault _ => s
  | .refused _ => s

/-- The state one step leads to. -/
def stepped (s : State) : State :=
  match step s with
  | .next t => t
  | .fault _ => s
  | .refused _ => s

/-- A running part with regulation active, station 7, nothing in flight. -/
def base : State :=
  { State.reset with
    power := { phase := .running, refclk := true, resetnLow := false, supplyLow := false, station := 7, rate := 0 }
    reg := { mode := .enforce, regenHigh := true }
    link := { LinkInterface.powerOn with receiver := .ready } }

/-- The part before INITIALISATION_COMPLETE. -/
def early : State := { base with power := { base.power with phase := .initialising } }

/-- The part with REFCLK stopped. -/
def stopped : State := { base with power := { base.power with refclk := false } }

/-- A link state in place of the one at hand. -/
def linked (st : LinkState) (s : State) : State := { s with link := { s.link with state := st } }

/-- A SELECTED station. -/
def selected : State := linked .selected base

/-- Live and staged parameters of one account. -/
def withParams (a : AccountIndex) (p : AccountParams) (s : State) : State :=
  let c := { s.store.live with accounts := s.store.live.accounts.set a.val p a.isLt }
  { s with store := { s.store with live := c, staged := c } }

/-- The running state of one account. -/
def withAccount (a : AccountIndex) (balance outstanding held : Nat) (s : State) : State :=
  updateAccount a (fun acc => { acc with balance := balance, outstanding := outstanding, held := held }) s

/-- Parameters with the fields most tests use. -/
def params (m : AccountMode) (ceiling : Nat) : AccountParams := { AccountParams.powerOn with mode := m, ceiling := ceiling }

/-- A READ without data. -/
def readOf (id : RequesterId) (tag : Tag) (addr : Addr) (len : Nat) : Request :=
  { id := id, tag := tag, dir := .read, addr := addr, len := len, data := none }

/-- A WRITE with as many zero beats as its length. -/
def writeOf (id : RequesterId) (tag : Tag) (addr : Addr) (len : Nat) : Request :=
  { id := id, tag := tag, dir := .write, addr := addr, len := len, data := some (List.replicate len 0) }

/-- A head not yet counted. -/
def headOf (r : Request) : Head := { req := r, tagWaitCounted := false, slotWaitCounted := false }

/-- The head offered. -/
def withHead (r : Request) (s : State) : State := { s with hostPort := { s.hostPort with head := some (headOf r) } }

/-- A HELD record. -/
def heldOf (r : Request) (a : AccountIndex) (b : Blocker) : HeldRecord :=
  { req := r, account := a, wait := 0, exempt := false, blocker := b }

/-- A REFUSING record. -/
def refusingRec (id : RequesterId) (tag : Tag) (c : Cause) : RefusingRecord :=
  { id := id, tag := tag, dir := .read, cause := c, account := none }

/-- A full pool: 24 REFUSING records of tags 0 to 23 of requester 63. -/
def fullPool : List PoolEntry :=
  (List.finRange 24).map fun i => ⟨i, .refusing (refusingRec 63 (BitVec.ofNat 8 i.val) .unmapped)⟩

/-- Unmapped requests are refused. -/
def unmappedRefused (s : State) : State :=
  { s with store := { s.store with live := { s.store.live with unmapped := .refuse } } }

/-- Outstanding entries of requester 60, tags 0 to n - 1, account 15. -/
def entries (n : Nat) : List OutstandingEntry :=
  (List.range n).map fun k => { id := 60, tag := BitVec.ofNat 8 k, account := 15 }

/-- A memory response to a READ of one beat. -/
def answerTo (id : RequesterId) (tag : Tag) : MemoryResponse := { id := id, tag := tag, status := .okay, data := some [7] }

/-! ### Well-formed commands (the smoke tests of WellFormed) -/

theorem test_offer_length_zero_refused : (Instr.offer (readOf 0 0 0 0)).wellFormed = false := by decide +kernel
theorem test_offer_length_seventeen_refused : (Instr.offer (readOf 0 0 0 17)).wellFormed = false := by decide +kernel
theorem test_offer_length_sixteen_wellFormed : (Instr.offer (readOf 0 0 0 16)).wellFormed = true := by decide +kernel
theorem test_unknown_command_with_known_code_refused : (Instr.unknownCommand 0x18 []).wellFormed = false := by decide +kernel
theorem test_unknown_command_with_long_payload_refused :
    (Instr.unknownCommand 0x17 (List.replicate 49 0)).wellFormed = false := by decide +kernel
theorem test_table_words_spell_no_command : decodeTableWord 8 0x18 = none := by decide +kernel

/-! ### The form check (the table of R54) -/

theorem test_form_misaligned : malformed (readOf 0 0 0x1004 1) = true := by decide +kernel
theorem test_form_last_beat_of_page : malformed (readOf 0 0 0x1FC0 8) = false := by decide +kernel
theorem test_form_crosses_page : malformed (readOf 0 0 0x1FC0 9) = true := by decide +kernel
theorem test_form_short_data : malformed { writeOf 0 0 0x2000 4 with data := some [0, 0, 0] } = true := by decide +kernel
theorem test_form_read_with_data : malformed { readOf 0 0 0x2000 2 with data := some [0, 0] } = true := by decide +kernel

/-! ### Classification (section 2.8) -/

/-- A valid entry. -/
def entry (idValue idMask : RequesterId) (base limit : Page) (filter : DirectionFilter) (a : AccountIndex) : MapEntry :=
  { valid := true, idValue := idValue, idMask := idMask, basePage := base, limitPage := limit, filter := filter, account := a }

/-- The live map of section 2.8. -/
def boardMap : Configuration :=
  { Configuration.powerOn with
    unmapped := .refuse
    map := Vector.ofFn fun i : Fin 24 =>
      match i.val with
      | 0 => entry 4 0x3F 0 1023 .both 1
      | 1 => entry 16 0x30 0 65535 .write 2
      | 2 => entry 16 0x30 0 65535 .read 3
      | 3 => entry 0 0 1024 1279 .both 4
      | 4 => { entry 0 0 0 1048575 .both 7 with valid := false }
      | 5 => entry 32 0x20 4096 8191 .both 5
      | _ => MapEntry.powerOn }

theorem test_classify_board_map :
    classify boardMap (readOf 4 0 0x00100000 8) = some 1 ∧ classify boardMap (writeOf 4 0 0x00412000 4) = some 4 ∧
    classify boardMap (writeOf 20 0 0x00412000 4) = some 2 ∧ classify boardMap (readOf 20 0 0x00412000 4) = some 3 ∧
    classify boardMap (readOf 40 0 0x01000800 2) = some 5 ∧ classify boardMap (readOf 9 0 0x02000000 1) = none := by
  decide +kernel

/-! ### Offers, takings and issues (sections 4.10 to 4.13, 1.4, 6.8) -/

/-- The board of section 4.10. -/
def board : State :=
  let s := { base with store := { base.store with live := boardMap } }
  let s := { s with store := { s.store with live := { s.store.live with
    accounts := ((s.store.live.accounts.set 1 { params .hold 64 with priority := 3 }).set 2
      { params .hold 64 with priority := 1, weight := 2 }).set 3 { params .hold 64 with priority := 1, cap := 4 } } } }
  withAccount 1 40 0 0 (withAccount 2 2 0 0 (withAccount 3 20 0 0 s))

/-- Section 4.10, step 1: H1 is held for want of credit, 8 above 2. -/
theorem test_offer_held_for_credit :
    heldRecords (ran (.offer (writeOf 20 1 0x8000 4)) board).pool = [heldOf (writeOf 20 1 0x8000 4) 2 .credit] ∧
      (accountOf (ran (.offer (writeOf 20 1 0x8000 4)) board) 2).counters.holds = 1 := by decide +kernel

/-- Section 4.10, step 4: H4 is refused as UNMAPPED with a capture record. -/
theorem test_offer_unmapped :
    refusingRecords (ran (.offer (readOf 5 0 0x9000 1)) board).pool = [refusingRec 5 0 .unmapped] ∧
      (ran (.offer (readOf 5 0 0x9000 1)) board).capture.seq = 1 := by decide +kernel

/-- The board with H1 held. -/
def boardHeld : State :=
  { withAccount 2 2 0 1 board with pool := [⟨0, .held (heldOf (writeOf 20 1 0x8000 4) 2 .credit)⟩] }

/-- Section 4.10, steps 2 and 3: ID_ORDER behind another account, HAZARD by the last half of the byte range. -/
theorem test_blockers_behind_a_held_write :
    disposition boardHeld (readOf 20 2 0x10000 2) = .hold 3 .idOrder ∧
      disposition boardHeld (readOf 4 9 0x8010 2) = .hold 1 .hazard := by decide +kernel

/-- Section 4.10, step 6: a metered charge of 8 against a balance of 0. -/
theorem test_issue_metered_charge :
    (accountOf (ran .mPortReadyEvent (withHead (readOf 7 3 0x401000 8) boardHeld)) 4).counters.overdrawCredits = 8 := by
  decide +kernel

/-- Section 1.4: an enforced READ of 4 beats leaves 6 of 10 credits. -/
theorem test_issue_enforced_charge :
    (accountOf (ran .mPortReadyEvent (withHead (readOf 4 0 0 4) (withAccount 1 10 0 0 board))) 1).balance = 6 := by decide +kernel

/-- Section 4.12: the head that repeats an outstanding pair is the sixth tag-wait episode. -/
theorem test_offer_tag_wait :
    let s := { board with
      outstanding := [{ id := 12, tag := 7, account := 3 }], hostPort := { board.hostPort with tagWaits := 5 } }
    (ran (.offer (readOf 12 7 0 2)) s).hostPort.tagWaits = 6 := by decide +kernel

/-- Section 4.13: cap before credit holds a head of a REFUSE account; without the cap it is refused. -/
theorem test_cap_before_credit :
    let s := withAccount 0 3 2 0 (withParams 0 { params .refuse 64 with cap := 2 } base)
    let free := withAccount 0 3 2 0 (withParams 0 (params .refuse 64) base)
    disposition s (readOf 1 0 0 4) = .hold 0 .cap ∧ disposition free (readOf 1 0 0 4) = .refuse .credit (some 0) := by decide +kernel

/-- A waiting head that a slot has become FREE for is taken by TAKE_HELD and by TAKE_REFUSING (R67, R68). -/
theorem test_take_held : (ran .takeHeld (withHead (writeOf 20 1 0x8000 4) board)).hostPort.head = none := by decide +kernel
theorem test_take_refusing : (ran .takeRefusing (withHead (readOf 5 0 0x9000 1) board)).hostPort.head = none := by decide +kernel

/-- Section 4.11: K2 finds no FREE slot, counts one slot wait and sets SLOT_STALL. -/
theorem test_offer_slot_wait :
    let s := { board with pool := fullPool }
    (ran (.offer (readOf 5 0 0x9000 1)) s).hostPort.slotWaits = 1 ∧
      (ran (.offer (readOf 5 0 0x9000 1)) s).alert.causes = 0x14 := by decide +kernel

/-- The pool of section 6.8 with its head G. -/
def contest : State :=
  let accounts := (((Configuration.powerOn.accounts.set 2 { params .meter 0 with priority := 1 }).set 3
    { params .meter 0 with priority := 1 }).set 1 { params .meter 0 with priority := 3 }).set 0 { params .meter 0 with priority := 1 }
  withHead (readOf 9 0 0x9000 1)
    { base with
      store := { base.store with live := { base.store.live with accounts := accounts } }
      pool := [⟨0, .held (heldOf (readOf 1 0 0 1) 2 .none)⟩, ⟨1, .held (heldOf (readOf 2 0 0 1) 2 .accountOrder)⟩,
        ⟨2, .held (heldOf (readOf 3 0 0 1) 3 .none)⟩, ⟨3, .held (heldOf (readOf 4 0 0 1) 1 .none)⟩] }

/-- Section 6.8: D first for its priority, then A, held before the head and older than C. -/
theorem test_pick_priority_then_age :
    pick contest = some (.held 3 (heldOf (readOf 4 0 0 1) 1 .none)) ∧
      pick (removeSlot 3 contest) = some (.held 0 (heldOf (readOf 1 0 0 1) 2 .none)) := by decide +kernel

/-! ### Responses (sections 6.9, 6.11) -/

/-- Section 6.11: the response for tag 13 is stray. -/
theorem test_stray_response :
    let s := { base with outstanding := [{ id := 6, tag := 12, account := 2 }] }
    (ran (.memoryResponse (answerTo 6 13)) s).memPort.strays = 1 ∧
      (ran (.memoryResponse (answerTo 6 12)) s).memPort.strays = 0 := by decide +kernel

/-- Section 6.9: both kinds wait; the preference MEMORY delivers the memory response and becomes REFUSAL. -/
def bothWaiting : State :=
  { withAccount 2 0 1 0 base with
    outstanding := [{ id := 6, tag := 12, account := 2 }]
    memPort := { base.memPort with resp := some (answerTo 6 12) }
    pool := [⟨5, .refusing (refusingRec 1 1 .unmapped)⟩, ⟨2, .refusing (refusingRec 2 2 .malformed)⟩] }

theorem test_merger_alternates :
    (ran .hPortReadyEvent bothWaiting).merger = .refusal ∧ (ran .hPortReadyEvent bothWaiting).outstanding = [] ∧
      (ran .hPortReadyEvent { bothWaiting with merger := .refusal }).hostPort.sent =
        some { id := 1, tag := 1, status := .refused .unmapped, data := none } := by decide +kernel

/-! ### The grid (sections 3.3, 5.13) -/

/-- Section 3.3: account 6 with Q 3, E 5, C 40. -/
def granted (slice balance : Nat) : State :=
  let s := withAccount 6 balance 0 0 (withParams 6 { params .meter 40 with quantum := 3, extra := 5 } base)
  { s with time := { s.time with slice := slice } }

theorem test_grant_below_extra_count : (accountOf (ran .sliceBoundary (granted 3 16)) 6).balance = 20 := by decide +kernel
theorem test_grant_clipped_at_ceiling : (accountOf (ran .sliceBoundary (granted 10 38)) 6).balance = 40 := by decide +kernel

/-- Section 3.3: the period boundary advances the period and grants Q + 1. -/
theorem test_period_boundary :
    (ran .periodBoundary (granted 31 0)).time = { cycle := 0, tick := 0, slice := 0, period := 1 } ∧
      (accountOf (ran .periodBoundary (granted 31 0)) 6).balance = 4 := by decide +kernel

/-- Section 3.3: a publication at a period boundary; 38 + 10 clipped to the new ceiling 30. -/
def publishing : State :=
  let s := withAccount 8 38 0 0 (withParams 8 { params .meter 30 with quantum := 10 } base)
  { s with
    store := { s.store with live := Configuration.powerOn, commitPending := true }
    time := { s.time with slice := 31, period := 12 } }

theorem test_publication_at_period_boundary :
    (accountOf (ran .publication publishing) 8).balance = 30 ∧ (ran .publication publishing).time.period = 13 ∧
      (ran .publication publishing).alert.causes = 0x12 := by decide +kernel

/-- R35: the tick that completes 1000 ticks is a slice boundary. -/
theorem test_tick_completes_slice :
    (ran .tick { base with time := { base.time with tick := 999 } }).time = { cycle := 0, tick := 0, slice := 1, period := 0 } := by
  decide +kernel

/-- Section 5.13: at the third boundary X expires, Y and Z become eligible. -/
def waiting : State :=
  let s := withParams 10 { params .hold 32 with quantum := 1, maxWait := 3 } (withParams 11 (params .hold 32) base)
  { withAccount 10 2 0 2 (withAccount 11 30 0 1 s) with
    pool := [⟨0, .held { heldOf (readOf 30 0 0 8) 10 .credit with wait := 2 }⟩,
      ⟨1, .held { heldOf (readOf 30 1 0x1000 2) 11 .idOrder with wait := 2 }⟩,
      ⟨2, .held { heldOf (readOf 31 0 0x2000 2) 10 .accountOrder with wait := 2 }⟩] }

theorem test_expiry_and_escape :
    refusingRecords (ran .expiry waiting).pool =
        [{ id := 30, tag := 0, dir := .read, cause := .expired, account := some 10 }] ∧
      (heldRecords (ran .expiry waiting).pool).map (fun h => h.blocker) = [.none, .none] := by decide +kernel

theorem test_expiry_counts :
    (accountOf (ran .expiry waiting) 10).counters.expiries = 1 ∧ (accountOf (ran .expiry waiting) 10).held = 1 ∧
      (accountOf (ran .expiry waiting) 10).counters.peakWait = 3 := by decide +kernel

/-! ### Regulation control and power-on (section 8.6) -/

/-- Section 8.6: the restart publishes, then fills account 2 to the new ceiling 64. -/
theorem test_restart_publishes_then_fills :
    let s := withParams 2 { params .hold 64 with quantum := 10 } base
    let low := { s with
      reg := { s.reg with regenHigh := false }
      store := { s.store with live := Configuration.powerOn, commitPending := true } }
    (accountOf (ran .regulationRestart low) 2).balance = 64 ∧
      (ran .regulationRestart low).store.commitPending = false := by decide +kernel

/-- R136: a fall makes a record short of credit eligible. -/
theorem test_regen_fall_lifts_credit :
    (heldRecords (ran .regenFall boardHeld).pool).map (fun h => h.blocker) = [.none] := by decide +kernel

/-- Section 8.6: initialisation complete with REGEN low starts at slice 0 of period 0 with the mode PASS. -/
theorem test_power_on_sequence :
    (ran (.initialisation 7 1) (ran (.powerOnReset (.releases .resetn)) (ran (.powerOnReset (.asserts .resetn)) base))).power.station
        = 7 ∧
      (ran (.initialisationComplete false) (ran (.initialisation 7 1) State.reset)).power.phase = .running := by
  decide +kernel

/-- R138, R141: RESETn holds the reset on after the detector has released it, and ALERTn is driven from then on. -/
theorem test_reset_ends_at_the_last_release :
    let both := ran (.powerOnReset (.asserts .resetn)) (ran (.powerOnReset (.asserts .detector)) base)
    let one := ran (.powerOnReset (.releases .detector)) both
    alertnDriven both = false ∧ (ran (.initialisation 7 1) one).power.phase = .inReset ∧ alertnDriven one = true ∧
      (ran (.initialisation 7 1) (ran (.powerOnReset (.releases .resetn)) one)).power.phase = .initialising := by decide +kernel

/-- REGEN low at a moment of the grid, with commands that wait. -/
def restartDue (cycle tick : Nat) (waiting : List Instr) : State :=
  { base with
    reg := { base.reg with regenHigh := false }
    time := { base.time with cycle := cycle, tick := tick, slice := 10 }
    pending := .regulationRestart :: waiting }

/-- Section 8.6: a restart inside slice 10, and the boundary of slice 1 after it; R46: a later tick counts. -/
theorem test_boundary_of_slice_1_after_a_restart :
    (stepped (stepped (restartDue 0 0 [.sliceBoundary]))).time.slice = 1 ∧
      (stepped (stepped (restartDue 98 5 [.tick]))).time.tick = 1 ∧
      (stepped (stepped (stepped (stepped (restartDue 99 5 [.statusKeep, .responseTurnaround, .tick]))))).time.tick = 1 := by
  decide +kernel

/-- R47, restart taken first: the tick, or the boundary, that falls together with it is discarded; the next is counted. -/
theorem test_restart_discards_the_coincident_tick :
    (stepped (stepped (restartDue 99 5 [.tick]))).time.tick = 0 ∧
      (stepped (stepped (restartDue 99 999 [.sliceBoundary]))).time.slice = 0 ∧
      (stepped (stepped (stepped (restartDue 99 5 [.tick, .tick])))).time.tick = 1 := by decide +kernel

/-- R40: while REFCLK is stopped no slice boundary occurs; it resumes. -/
theorem test_refclk_stop :
    (ran .sliceBoundary (ran .refclkStop base)).time.slice = 0 ∧ (ran .refclkResume stopped).power.refclk = true := by decide +kernel

/-! ### The link (sections 10, 11.7, 12.4) -/

/-- Section 12.4: the frame of WRITE_ACCOUNT 6. -/
theorem test_write_account_frame :
    commandFrame 0x11 [0x06, 0x01, 0x00, 0x02, 0x10, 0x04, 0x08, 0x01, 0x00, 0x00, 0x02] =
      [0x11, 0x0B, 0x06, 0x01, 0x00, 0x02, 0x10, 0x04, 0x08, 0x01, 0x00, 0x00, 0x02, 0xBC] := by decide +kernel

/-- Section 12.4: the staged account 6. -/
theorem test_write_account :
    (ran (.writeAccount 6 1 512 16 2052 1 0 0 2) selected).store.staged.accounts[6] =
      { mode := .hold, quantum := 512, extra := 16, ceiling := 2052, weight := 1, cap := 0, maxWait := 0, priority := 2 } := by
  decide +kernel

/-- The response frame that a command leaves to be sent. -/
def answerOf (s : State) : List Byte :=
  match s.link.state with
  | .responding r => responseFrame r
  | .unselected | .selected | .receiving _ | .discarding _ | .broadcast | .broadcastReceiving _ => []

/-- Section 12.4: Q 4096 is answered 05h, 00h, FBh. -/
theorem test_write_account_range : answerOf (ran (.writeAccount 6 1 4096 16 2052 1 0 0 2) selected) = [0x05, 0x00, 0xFB] := by
  decide +kernel

/-- Section 12.4: slot 3 holds the UNMAPPED refusal H4, at pool position 3; then it is FREE. -/
theorem test_read_hold_refusing :
    let s := { selected with pool := [⟨0, .held (heldOf (readOf 20 1 0 1) 2 .credit)⟩, ⟨1, .held (heldOf (readOf 20 2 0 1) 3 .idOrder)⟩,
      ⟨2, .held (heldOf (readOf 4 9 0 1) 1 .hazard)⟩, ⟨3, .refusing (refusingRec 5 0 .unmapped)⟩] }
    answerOf (ran (.readHold 3) s) = [0x00, 0x08, 0x03, 0x02, 0x05, 0x00, 0x00, 0x04, 0xFF, 0x03, 0xE8] := by decide +kernel
theorem test_read_hold_free : answerOf (ran (.readHold 3) selected) = [0x00, 0x02, 0x03, 0x00, 0xFB] := by decide +kernel

/-- Section 11.7: station 7 with a commit pending. -/
def committing : State := { selected with store := { selected.store with commitPending := true } }

/-- The status byte of a command's answer. -/
def statusOf (s : State) : Option Byte := (answerOf s).head?

theorem test_status_precedence :
    statusOf (ran (.unknownCommand 0x17 [1, 2, 3]) committing) = some 0x03 ∧
      (execute 0x11 (List.replicate 10 0) committing).2.status = .badPayload ∧
      statusOf (ran (.writeAccount 16 0 0 0 0 1 0 0 0) committing) = some 0x05 ∧
      statusOf (ran (.writeAccount 3 0 0 0 0 3 0 0 0) committing) = some 0x05 ∧
      statusOf (ran (.writeAccount 3 0 0 0 0 1 0 0 0) committing) = some 0x06 ∧
      statusOf (ran .commit committing) = some 0x06 ∧ statusOf (ran (.flushRefuse 3) committing) = some 0x00 ∧
      (execute 0x02 [5] committing).2.status = .range := by decide +kernel

/-- Section 7.9: the first COMMIT names ACCOUNT 6, CEILING_SHORT. -/
theorem test_commit_invalid_account :
    let c := { Configuration.powerOn with
      accounts := Configuration.powerOn.accounts.set 6 { params .hold 30 with weight := 2 }
      map := Configuration.powerOn.map.set 9 (entry 0 0 500 400 .both 0) }
    answerOf (ran .commit { selected with store := { selected.store with staged := c } }) =
      [0x07, 0x03, 0x00, 0x06, 0x01, 0xEF] := by decide +kernel

/-- Section 7.9: the second COMMIT names MAP 9, PAGE_ORDER. -/
theorem test_commit_invalid_map :
    let c := { Configuration.powerOn with
      accounts := Configuration.powerOn.accounts.set 6 { params .hold 64 with weight := 2 }
      map := Configuration.powerOn.map.set 9 (entry 0 0 500 400 .both 0) }
    answerOf (ran .commit { selected with store := { selected.store with staged := c } }) =
      [0x07, 0x03, 0x01, 0x09, 0x02, 0xEA] := by decide +kernel

/-- Section 7.9: CANCEL_COMMIT clears commit pending; COPY_LIVE_TO_STAGED is refused while it is set. -/
theorem test_cancel_commit : (ran .cancelCommit committing).store.commitPending = false := by decide +kernel
theorem test_copy_refused_while_pending : statusOf (ran .copyLiveToStaged committing) = some 0x06 := by decide +kernel

/-- R191, R192: a written entry and written globals read back. -/
theorem test_write_map :
    (ran (.writeMap 9 1 5 63 500 400 2 3) selected).store.staged.map[9] = entry 5 63 500 400 .write 3 := by decide +kernel
theorem test_write_globals_length_zero_refused : statusOf (ran (.writeGlobals 0 0 0) selected) = some 0x05 := by decide +kernel
theorem test_read_globals :
    (answerOf (ran .readGlobals selected)).take 12 = [0x00, 0x0A, 0x63, 0x00, 0xE8, 0x03, 0x00, 0x63, 0x00, 0xE8, 0x03, 0x00] := by
  decide +kernel
theorem test_read_account_staged_length : (answerOf (ran (.readAccount 6 0) selected)).length = 15 := by decide +kernel
theorem test_read_account_live_length : (answerOf (ran (.readAccount 6 1) selected)).length = 19 := by decide +kernel
theorem test_read_map_index : statusOf (ran (.readMap 24 0) selected) = some 0x05 := by decide +kernel

/-- R188: the identity block. -/
theorem test_identify :
    (answerOf (ran .identify selected)).take 13 =
      [0x00, 0x0B, 0x37, 0x0A, 0x60, 0x01, 0x01, 0x07, 16, 24, 24, 16, 8] := by decide +kernel

/-- R189: bits 0 to 2 of the flags, and the payload of 18 bytes. -/
theorem test_status_keep :
    (answerOf (ran .statusKeep selected)).take 3 = [0x00, 0x12, 0x07] ∧ (answerOf (ran .statusKeep selected)).length = 21 := by
  decide +kernel
theorem test_status_clear :
    (ran .statusClear { selected with memPort := { selected.memPort with strays := 2 } }).memPort.strays = 0 := by decide +kernel

/-- R18: the clear is at the snapshot. -/
def counted : State :=
  updateAccount 3 (fun acc => { acc with counters := { Counters.zero with holds := 258 } }) selected

theorem test_read_counters_keep :
    (answerOf (ran (.readCountersKeep 3) counted)).take 15 = [0, 31, 3, 0, 0, 0, 0, 0, 0, 0, 0, 2, 1, 0, 0] := by decide +kernel
theorem test_read_counters_clear : (accountOf (ran (.readCountersClear 3) counted) 3).counters = Counters.zero := by decide +kernel

/-- Section 9.2: four refusals of a flush into a ring of six records. -/
def sixRecords : State :=
  let r := captureRecordOf base (readOf 0 0 0 1) .unmapped none
  { selected with
    capture := { records := (List.range 6).map (fun k => { r with seq := 40 + k }), lost := 0, seq := 46 }
    pool := (List.finRange 4).map fun k : Fin 4 =>
      ⟨Fin.castLE (by decide) k, .held (heldOf (readOf (BitVec.ofNat 6 k.val) 0 0 1) 2 .none)⟩ }

theorem test_flush_overwrites_the_ring :
    ((ran (.flushRefuse 2) sixRecords).capture.records.map fun r => r.seq) = [42, 43, 44, 45, 46, 47, 48, 49] ∧
      (ran (.flushRefuse 2) sixRecords).capture.lost = 2 ∧ (ran (.flushRefuse 2) sixRecords).capture.seq = 50 := by decide +kernel
/-- R82: F and F' of account 2 are flushed and C between them, held behind F, is refused for credit: captured in pool order. -/
def chained : State :=
  let s := withAccount 5 0 0 1 (withAccount 2 0 0 2 (withParams 5 (params .refuse 16) (withParams 2 (params .hold 16) selected)))
  { s with pool := [⟨0, .held (heldOf (readOf 9 0 0 1) 2 .credit)⟩, ⟨1, .held (heldOf (readOf 9 1 0x1000 1) 5 .idOrder)⟩,
    ⟨2, .held (heldOf (readOf 8 0 0x2000 1) 2 .accountOrder)⟩] }

theorem test_flush_captures_in_pool_order :
    ((ran (.flushRefuse 2) chained).capture.records.map fun r => (r.cause, r.id, r.tag)) =
      [(.flushed, 9, 0), (.credit, 9, 1), (.flushed, 8, 0)] := by decide +kernel
theorem test_flush_release_counts : (answerOf (ran (.flushRelease 0xFF) sixRecords)).take 3 = [0, 1, 4] := by decide +kernel
theorem test_read_capture :
    (answerOf (ran .readCapture sixRecords)).take 6 = [0x00, 0x11, 5, 0, 40, 0] := by decide +kernel
theorem test_clear_capture :
    (ran .clearCapture sixRecords).capture = { records := [], lost := 0, seq := 46 } := by decide +kernel

/-- R134: SET_MODE PASS; R185: a value that names no mode is RANGE. -/
theorem test_set_mode : (ran (.setMode 0) selected).reg.mode = .pass := by decide +kernel
theorem test_set_mode_range : statusOf (ran (.setMode 2) selected) = some 0x05 := by decide +kernel

/-- Section 9.4: the first two rows; bits 6 and 7 of a mask are ignored (R185). -/
theorem test_ack_alert : alertnDriven (ran (.ackAlert 0xD0) selected) = false := by decide +kernel
theorem test_set_alert_enable : (ran (.setAlertEnable 0x13) selected).alert.enables = 0x13 := by decide +kernel

/-- R158: own number, broadcast, another value. -/
theorem test_select :
    (ran (.selectCharacter 7) base).link.state = .selected ∧ (ran (.selectCharacter 0x1F) selected).link.state = .broadcast ∧
      (ran (.selectCharacter 0x27) selected).link.state = .unselected := by decide +kernel

/-- R161: a length byte of 49 ends the frame with one link error. -/
theorem test_length_byte_too_long :
    let f : Frame := { code := 0x01, length := none, payload := [], sum := 0x01 }
    (ran (.dataCharacter 49) (linked (.receiving f) base)).link.state = .discarding false ∧
      (ran (.dataCharacter 49) (linked (.receiving f) base)).link.errors = 1 := by decide +kernel

/-- R164: framing error and timeout in a frame. -/
theorem test_framing_error :
    (ran .framingError (linked (.discarding true) base)).link.state = .broadcast ∧
      (ran .framingError selected).link.errors = 1 := by decide +kernel
theorem test_frame_timeout :
    (ran .frameTimeout (linked (.discarding false) base)).link.errors = 0 ∧ (ran .frameTimeout selected).link.errors = 0 := by
  decide +kernel

/-- R157: a break deselects and counts nothing; after it the receiver waits for the rise of MDI. -/
theorem test_break :
    (ran .linkBreak selected).link.state = .unselected ∧ (ran .linkBreak selected).link.errors = 0 ∧
      (ran (.selectCharacter 7) (ran .linkBreak selected)).link.state = .unselected := by decide +kernel
theorem test_end_of_break : (ran .endOfBreak (ran .linkBreak selected)).link.inBreak = false := by decide +kernel

/-- A response of IDENTIFY in its turnaround, and begun. -/
def turning : Response := { status := .done, payload := [], sent := 0, begun := false, turnaround := 175 }
def begun : Response := { turning with begun := true, sent := 2 }

/-- R165: the first character is the status; at the end MDO is released and the station SELECTED. -/
theorem test_response_turnaround :
    (ran .responseTurnaround (linked (.responding turning) base)).link.mdo = some { byte := 0, elapsed := 0 } := by decide +kernel
theorem test_response_end : (ran .responseEnd (linked (.responding begun) base)).link.state = .selected := by decide +kernel

/-- R156: start bit, data least significant first, mark 0 (for a response character), stop bit. -/
theorem test_character_bits :
    characterBits 0x05 false = [false, true, false, true, false, false, false, false, false, false, true] := by decide +kernel

/-- R156: at the end of its stop bit (16 cycles a bit) a character with mark 1 is a select value, with mark 0 a data byte; a stop
bit of 0 leaves it open until MDI rises. -/
theorem test_receiver :
    let bits := (characterBits 0x9D true).drop 1
    receiverCycle 16 true (.character 175 (bits.take 9)) = (.ready, some (.select 0x9D)) ∧
      receiverCycle 16 true (.character 175 (bits.take 8 ++ [false])) = (.ready, some (.data 0x9D)) ∧
      receiverCycle 16 false (.character 168 (bits.take 9)) = (.unsettled, none) ∧
      receiverEdge true .unsettled = (.ready, some .framingError) := by decide +kernel

/-- R156: the middle of the first data bit is 24 cycles after the fall of the start bit. -/
theorem test_receiver_samples :
    receiverCycle 16 true (.character 23 []) = (.character 24 [], none) ∧
      receiverCycle 16 true (.character 24 []) = (.character 25 [true], none) := by decide +kernel

/-- R157: the 352nd low cycle makes a break, 22 bit times of 16 cycles. -/
theorem test_low_for_two_characters :
    let s := { linked .selected base with mdi := [false, false] }
    (refclkCycle { s with link := { s.link with receiver := .unsettled, lowFor := 351 } }).link.inBreak = true ∧
      (refclkCycle { s with link := { s.link with receiver := .unsettled, lowFor := 350 } }).link.state = .selected := by
  decide +kernel

/-! ### Witnesses: the hypotheses of each statement are met, clause by clause -/

/-- The boundary values of the cycle count, 98 and 99 of prescale 99. -/
def atCycle (n : Nat) : State := { base with time := { base.time with cycle := n } }

theorem witness_emptyQueue :
    ¬ClockRunning State.reset ∧ ClockRunning (atCycle 98) ∧ (atCycle 98).link.state = .unselected ∧
      (atCycle 98).link.mdo = none ∧ LineIdle (atCycle 98) ∧ LineIdle (atCycle 99) ∧ 98 + 1 < (atCycle 98).store.live.prescale + 1 ∧
      (atCycle 99).store.live.prescale + 1 ≤ 99 + 1 ∧ base.pending = [] := by decide +kernel

/-- A power-on reset that RESETn holds. -/
def heldByResetn : State := ran (.powerOnReset (.asserts .resetn)) base

theorem witness_powerOnReset :
    base.power.resetnLow = false ∧ base.power.supplyLow = false ∧ heldByResetn.power.resetnLow = true := by decide +kernel

theorem witness_eventsOutsideRunning :
    ¬Running early ∧ onlyWhileRunning .endOfBreak = true ∧ stopped.power.refclk = false ∧
      onlyWithRefclk (.initialisationComplete true) = true := by decide +kernel

theorem witness_initialisation :
    State.reset.power.phase = .inReset ∧ State.reset.power.supplyLow = false ∧ State.reset.power.resetnLow = false ∧
      heldByResetn.power.phase = .inReset ∧ heldByResetn.power.resetnLow = true ∧ early.power.phase = .initialising ∧ early.power.refclk = true ∧
      early.hostPort.head = none ∧ early.outstanding = [] ∧ early.memPort.resp = none ∧
      { early with memPort := { early.memPort with resp := some (answerTo 0 0) } }.memPort.resp ≠ none := by
  decide +kernel

/-- The boundary values of the tick count, 998 and 999 of L 1000. -/
def atTick (n : Nat) : State := { base with time := { base.time with tick := n } }

theorem witness_tick :
    (atTick 998).time.dropsTick = false ∧
      ClockRunning { base with time := { base.time with dropsTick := true } } ∧ ClockRunning (atTick 998) ∧ 998 + 1 < (atTick 998).store.live.sliceLength ∧ ClockRunning (atTick 999) ∧
      (atTick 999).store.live.sliceLength ≤ 999 + 1 := by decide +kernel

theorem witness_sliceBoundary : TicksCount (granted 31 38) := by decide +kernel

theorem witness_periodBoundary :
    TicksCount publishing ∧ TicksCount (granted 30 0) ∧ TicksCount (granted 31 0) ∧ (publishing.time.slice + 1) % 32 = 0 ∧ publishing.store.commitPending = true ∧
      (granted 31 0).store.commitPending = false ∧ ((granted 31 0).time.slice + 1) % 32 = 0 ∧
      ((granted 30 0).time.slice + 1) % 32 ≠ 0 := by decide +kernel

/-- Two HELD records, one of them expiring, with wait 2 and 255. -/
theorem witness_sliceBoundaryAges :
    TicksCount waiting ∧ exec .sliceBoundary waiting = .next (ran .sliceBoundary waiting) ∧
      (⟨1, .held { heldOf (readOf 30 1 0x1000 2) 11 .none with wait := 3 }⟩ : PoolEntry) ∈
        (ran .sliceBoundary waiting).pool ∧
      (⟨0, .refusing { id := 30, tag := 0, dir := .read, cause := .expired, account := some 10 }⟩ : PoolEntry) ∈
        (ran .sliceBoundary waiting).pool := by
  refine ⟨by decide +kernel, rfl, by decide +kernel, by decide +kernel⟩

/-- One HELD record of max wait 255 with wait 254. -/
def lastWait : State :=
  let s := withAccount 10 2 0 1 (withParams 10 { params .hold 32 with quantum := 1, maxWait := 255 } base)
  { s with pool := [⟨23, .held { heldOf (readOf 30 0 0 8) 10 .credit with wait := 254 }⟩] }

theorem witness_expiry :
    let h := { heldOf (readOf 30 0 0 8) 10 .credit with wait := 254 }
    let p := liveParams lastWait h.account
    TicksCount lastWait ∧ TicksCount base ∧ lastWait.pool = [⟨23, .held h⟩] ∧ lastWait.hostPort.head = none ∧
      lastWait.time.slice + 1 < 32 ∧ regulationActive lastWait = true ∧ p.mode = .hold ∧ p.cap = 0 ∧ h.exempt = false ∧
      p.maxWait ≠ 0 ∧ p.maxWait ≤ min (h.wait + 1) 255 ∧
      min ((accountOf lastWait h.account).balance + p.quantum) p.ceiling < cost p h.req ∧
      heldRecords base.pool = [] ∧
      lastWait.pool[0]? = some ⟨23, .held h⟩ ∧ (ran .sliceBoundary lastWait).pool[0]? =
        some ⟨23, .refusing { id := 30, tag := 0, dir := .read, cause := .expired, account := some 10 }⟩ := by
  decide +kernel

/-- REGEN low with a commit pending. -/
def regenLow : State :=
  let s := withParams 2 { params .hold 32 with weight := 2, cap := 4 } base
  { s with
    reg := { s.reg with regenHigh := false }
    store := { s.store with commitPending := true }
    pool := [⟨0, .held (heldOf (writeOf 9 0 0 16) 2 .none)⟩] }

theorem witness_restart :
    Running regenLow ∧ regenLow.reg.regenHigh = false ∧ regenLow.store.commitPending = true ∧
      regenLow.hostPort.head = none ∧ base.reg.regenHigh = true ∧ regenLow.power.refclk = true ∧ StoreSound regenLow ∧
      StoreInRange regenLow ∧ (∀ h ∈ heldRecords regenLow.pool, 1 ≤ h.req.len ∧ h.req.len ≤ 16) ∧
      FallsTogether (restartDue 99 999 []) .publication ∧ FallsTogether (restartDue 99 998 []) .tick ∧
      ¬FallsTogether (restartDue 99 998 []) .sliceBoundary ∧ ¬FallsTogether (restartDue 98 999 []) .tick ∧
      regenLow.pending.head? = none := by decide +kernel

/-- The costliest request, 32 credits, against the smallest ceiling that a commit admits. -/
theorem witness_restartRefusesNoRecord :
    Running regenLow ∧ regenLow.reg.regenHigh = false ∧ StoreSound regenLow ∧ StoreInRange regenLow ∧
      regenLow.hostPort.head = none ∧ (∀ h ∈ heldRecords regenLow.pool, 1 ≤ h.req.len ∧ h.req.len ≤ 16) ∧
      exec .regulationRestart regenLow = .next (ran .regulationRestart regenLow) := by
  refine ⟨by decide +kernel, by decide +kernel, by decide +kernel, by decide +kernel, by decide +kernel, by decide +kernel, rfl⟩

theorem witness_regenFall :
    Running boardHeld ∧ boardHeld.reg.regenHigh = true ∧ boardHeld.hostPort.head = none ∧
      Running regenLow ∧ regenLow.reg.regenHigh = false := by decide +kernel

/-- A response whose second character is on MDO, and one stopped before its last character. -/
theorem witness_refclk :
    base.power.refclk = true ∧ ¬ResponseBegun base ∧ (linked (.responding begun) base).power.refclk = true ∧
      (linked (.responding begun) base).link.state = .responding begun ∧ begun.begun = true ∧
      stopped.power.refclk = false ∧ ¬ResponseBegun stopped ∧
      (linked (.responding begun) stopped).link.state = .responding begun ∧
      (responseFrame begun)[begun.sent]? = some 0 ∧
      (linked (.responding { begun with sent := (responseFrame begun).length }) stopped).link.state =
        .responding { begun with sent := (responseFrame begun).length } := by
  refine ⟨by decide, ?_, by decide, rfl, rfl, by decide, ?_, rfl, by decide, rfl⟩
  · rintro ⟨r, h, -⟩; exact LinkState.noConfusion h
  · rintro ⟨r, h, -⟩; exact LinkState.noConfusion h

/-- Two well-formed requests of 1 and 16 beats whose byte ranges touch in one beat. -/
theorem witness_form :
    (writeOf 1 0 0xF80 16).wellFormed = true ∧ (readOf 2 0 0xFF8 1).wellFormed = true ∧
      malformed (writeOf 1 0 0xF80 16) = false ∧ malformed (readOf 2 0 0xFF8 1) = false ∧
      overlaps (writeOf 1 0 0xF80 16) (readOf 2 0 0xFF8 1) = true := by decide +kernel

/-- The entry of index 23 alone matches; none matches, with either unmapped action. -/
theorem witness_classification :
    let c := { Configuration.powerOn with map := Configuration.powerOn.map.set 23 (entry 0 0 0 1048575 .both 15) }
    let r := readOf 63 0 0xFFFFF000 1
    entryMatches c.map[(23 : Fin 24)] r = true ∧ (∀ j : Fin 24, j < 23 → entryMatches c.map[j] r = false) ∧
      (∀ j : Fin 24, entryMatches Configuration.powerOn.map[j] r = false) ∧
      Configuration.powerOn.unmapped = .account 0 ∧ { Configuration.powerOn with unmapped := .refuse }.unmapped = .refuse := by
  decide +kernel

/-- A REFUSE account with balance 3 and one with the cap reached; a METER account; an outstanding pair. -/
def short (m : AccountMode) (cap : Nat) : State :=
  withAccount 0 3 2 0 (withParams 0 { params m 64 with cap := cap }
    { base with outstanding := [{ id := 12, tag := 7, account := 0 }, { id := 12, tag := 8, account := 0 }] })

theorem witness_disposition :
    let q := readOf 1 0 0 4
    let b := fun s => admissionTest s 0 false q (heldRecords s.pool)
    malformed (readOf 1 0 4 4) = true ∧ malformed q = false ∧ InTagConflict (short .refuse 0) (readOf 12 7 0 1) ∧
      malformed (readOf 12 7 0 1) = false ∧ ¬InTagConflict (short .refuse 0) q ∧
      classify (unmappedRefused (short .refuse 0)).store.live q = none ∧
      classify (short .refuse 0).store.live q = some 0 ∧ b (short .refuse 0) = .credit ∧
      (liveParams (short .refuse 0) 0).mode = .refuse ∧ b (short .refuse 2) = .cap ∧ b (short .hold 0) = .credit ∧
      b (short .meter 2) = .none ∧ (liveParams (short .meter 2) 0).mode = .meter := by decide +kernel

/-- A full pool, and one with the last slot FREE. -/
def full : State := { short .hold 0 with pool := fullPool }
def lastFree : State := { short .hold 0 with pool := fullPool.take 23 }

theorem witness_offeredHeadWaits :
    Running full ∧ full.hostPort.head = none ∧ disposition (short .meter 0) (readOf 1 0 0 4) = .issue 0 ∧
      InTagConflict full (readOf 12 7 0 1) ∧ ¬InTagConflict full (readOf 1 0 0 4) ∧ PoolFull full ∧
      disposition full (readOf 1 0 0 4) = .hold 0 .credit ∧ disposition full (readOf 1 0 4 4) = .refuse .malformed none ∧
      (withHead (readOf 1 0 0 4) full).hostPort.head ≠ none := by decide +kernel

/-- The lowest FREE slot is 23, and 0. -/
theorem witness_headTakenAsHeld :
    Running lastFree ∧ LowestFree lastFree 23 ∧ disposition lastFree (readOf 1 0 0 4) = .hold 0 .credit ∧
      lastFree.hostPort.head = none ∧ LowestFree (short .hold 0) 0 ∧
      (withHead (readOf 1 0 0 4) lastFree).hostPort.head = some (headOf (readOf 1 0 0 4)) ∧
      LowestFree (withHead (readOf 1 0 0 4) lastFree) 23 ∧
      disposition (withHead (readOf 1 0 0 4) lastFree) (readOf 1 0 0 4) = .hold 0 .credit := by decide +kernel

theorem witness_headTakenAsRefusing :
    let s := { short .refuse 0 with pool := fullPool.take 23 }
    Running s ∧ LowestFree s 23 ∧ ¬InTagConflict s (readOf 1 0 0 4) ∧
      disposition s (readOf 1 0 0 4) = .refuse .credit (some 0) ∧
      disposition s (readOf 1 0 4 4) = .refuse .malformed none ∧ s.hostPort.head = none ∧
      (withHead (readOf 1 0 0 4) s).hostPort.head = some (headOf (readOf 1 0 0 4)) := by decide +kernel

/-- The head of section 6.8 is picked once no eligible record is left. -/
theorem witness_pick :
    pick contest = some (.held 3 (heldOf (readOf 4 0 0 1) 1 .none)) ∧
      pick { contest with pool := [] } = some (.head (readOf 9 0 0x9000 1) 0) ∧ pick base = none := by decide +kernel

/-- A settled pool with a HELD candidate whose balance is exactly its cost, one under its cap, and a head candidate. -/
def covered : State :=
  let s := withAccount 2 4 1 1 (withParams 2 { params .hold 64 with cap := 2 } base)
  let s := withAccount 0 1 0 0 { s with store := { s.store with live := { s.store.live with
    accounts := s.store.live.accounts.set 0 (params .refuse 16) } } }
  withHead (readOf 1 0 0x9000 1)
    { s with
      outstanding := [{ id := 60, tag := 0, account := 2 }]
      pool := [⟨4, .held (heldOf (readOf 9 0 0 4) 2 .none)⟩] }

theorem witness_candidates :
    PoolSettled covered ∧ Candidate.held 4 (heldOf (readOf 9 0 0 4) 2 .none) ∈ candidates covered ∧
      restrained covered 2 = true ∧ (heldOf (readOf 9 0 0 4) 2 .none).exempt = false ∧
      Candidate.head (readOf 1 0 0x9000 1) 0 ∈ candidates covered ∧ restrained covered 0 = true := by decide +kernel

/-- Fifteen requests outstanding, and sixteen. -/
theorem witness_mPortHeld :
    let s := { contest with outstanding := entries 15 }
    Running s ∧ s.outstanding.length < 16 ∧ pick s = some (.held 3 (heldOf (readOf 4 0 0 1) 1 .none)) ∧
      { s with hostPort := { s.hostPort with head := none } }.hostPort.head = none ∧
      pick { s with hostPort := { s.hostPort with head := none } } = some (.held 3 (heldOf (readOf 4 0 0 1) 1 .none)) := by
  decide +kernel

theorem witness_mPortHead :
    let s := { contest with pool := [], outstanding := entries 15 }
    Running s ∧ s.outstanding.length < 16 ∧ pick s = some (.head (readOf 9 0 0x9000 1) 0) ∧
      16 ≤ { s with outstanding := entries 16 }.outstanding.length ∧ pick base = none := by decide +kernel

theorem witness_stray :
    let s := { base with outstanding := entries 16 }
    Running s ∧ s.memPort.resp = none ∧ (∀ e ∈ s.outstanding, (e.id, e.tag) ≠ ((60 : RequesterId), (16 : Tag))) ∧
      (∃ e ∈ s.outstanding, (e.id, e.tag) = ((60 : RequesterId), (15 : Tag))) ∧ bothWaiting.memPort.resp ≠ none := by
  decide +kernel

theorem witness_hPortMemory :
    Running bothWaiting ∧ PairsDistinct bothWaiting ∧ bothWaiting.memPort.resp = some (answerTo 6 12) ∧
      (⟨6, 12, 2⟩ : OutstandingEntry) ∈ bothWaiting.outstanding ∧ bothWaiting.merger = .memory ∧
      refusingRecords { bothWaiting with pool := [] }.pool = [] := by decide +kernel

theorem witness_hPortRefusal :
    let s := { bothWaiting with
      pool := [⟨7, .held (heldOf (readOf 3 3 0 1) 2 .none)⟩] ++
        ⟨5, .refusing (refusingRec 1 1 .unmapped)⟩ :: [⟨2, .refusing (refusingRec 2 2 .malformed)⟩]
      merger := .refusal }
    Running s ∧ SlotsDistinct s ∧ refusingRecords [⟨7, .held (heldOf (readOf 3 3 0 1) 2 .none)⟩] = [] ∧
      s.merger = .refusal ∧ base.memPort.resp = none ∧ refusingRecords base.pool = [] := by decide +kernel

/-- An H-port ready event that sends a held pair. -/
theorem witness_everyHeldPair :
    let s := { bothWaiting with pending := [.hPortReadyEvent] }
    SlotsDistinct s ∧ WaitingResponseMatched s ∧
      step s = .next (ran .hPortReadyEvent { s with pending := [] }) ∧
      ((6 : RequesterId), (12 : Tag)) ∈ heldPairs s ∧
      (ran .hPortReadyEvent { s with pending := [] }).hostPort.sent ≠ s.hostPort.sent := by
  refine ⟨by decide +kernel, ?_, rfl, by decide +kernel, by decide +kernel⟩
  intro _ r hr
  cases hr; decide +kernel

/-- The greatest and the first wrong value of the fields of WRITE_ACCOUNT. -/
theorem witness_writeAccount :
    SelectedListening selected ∧ selected.store.commitPending = false ∧ SelectedListening committing ∧
      committing.store.commitPending = true ∧ (15 : Byte).toNat = (15 : AccountIndex).val ∧ modeByte .refuse = 0x02 ∧
      (2 : Byte).toNat ≤ 2 ∧ (4095 : BitVec 16).toNat ≤ 4095 ∧ (31 : Byte).toNat ≤ 31 ∧ (16 : Byte).toNat ≤ 16 ∧
      (3 : Byte).toNat ≤ 3 ∧ ¬(4096 : BitVec 16).toNat ≤ 4095 := by decide +kernel

theorem witness_writeMapAndGlobals :
    SelectedListening selected ∧ selected.store.commitPending = false ∧ committing.store.commitPending = true ∧
      (23 : Byte).toNat = (23 : Fin 24).val ∧ (15 : Byte).toNat = (15 : AccountIndex).val ∧ filterByte .write = 0x02 ∧
      (1048575 : BitVec 24).toNat ≤ 1048575 ∧ ¬(1048576 : BitVec 24).toNat ≤ 1048575 ∧
      (4096 : BitVec 16).toNat ≤ 4096 ∧ ¬1 ≤ (0 : BitVec 16).toNat ∧ unmappedByte .refuse = 0xFF := by decide +kernel

/-- The last account short of its ceiling by one; the last entry with its pages turned round; a sound copy. -/
theorem witness_commit :
    let short := { selected.store.staged with
      accounts := selected.store.staged.accounts.set 15 { params .refuse 31 with weight := 2 } }
    let turned := { selected.store.staged with map := selected.store.staged.map.set 23 (entry 0 0 1 0 .both 0) }
    SelectedListening selected ∧ selected.store.commitPending = false ∧ committing.store.commitPending = true ∧
      (short.accounts[(15 : AccountIndex)].mode = .refuse ∧ short.accounts[(15 : AccountIndex)].ceiling < 16 * 2) ∧
      (∀ b : AccountIndex, b < 15 → accountFaulty short.accounts[b] = false) ∧
      mapFaulty turned.map[(23 : Fin 24)] = true ∧ (∀ j : Fin 24, j < 23 → mapFaulty turned.map[j] = false) ∧
      firstFault selected.store.staged = none := by decide +kernel

/-- A step that publishes, and one that keeps the live copy. -/
theorem witness_liveConfiguration :
    step { publishing with pending := [.publication] } = .next (ran .publication publishing) ∧
      (ran .publication publishing).store.live ≠ publishing.store.live := by
  refine ⟨rfl, by decide +kernel⟩

theorem witness_reports : SelectedListening selected := by decide +kernel

theorem witness_configurationReads :
    SelectedListening selected ∧ ¬((16 : Byte).toNat ≤ 15 ∧ (0 : Byte).toNat ≤ 1) ∧
      ¬((15 : Byte).toNat ≤ 15 ∧ (2 : Byte).toNat ≤ 1) ∧ (15 : Byte).toNat = (15 : AccountIndex).val ∧
      ¬((24 : Byte).toNat ≤ 23 ∧ (1 : Byte).toNat ≤ 1) ∧ (23 : Byte).toNat = (23 : Fin 24).val := by decide +kernel

theorem witness_readCounters :
    SelectedListening counted ∧ 16 ≤ (16 : Byte).toNat ∧ (15 : Byte).toNat = (15 : AccountIndex).val := by decide +kernel

theorem witness_readHold :
    let s := { selected with pool := [⟨7, .held (heldOf (readOf 3 3 0 1) 2 .none)⟩] ++
      ⟨23, .refusing (refusingRec 1 1 .unmapped)⟩ :: [] }
    SelectedListening s ∧ 24 ≤ (24 : Byte).toNat ∧ (23 : Byte).toNat = (23 : SlotIndex).val ∧
      (∀ e ∈ selected.pool, e.slot ≠ (23 : SlotIndex)) ∧ SlotsDistinct s := by decide +kernel

theorem witness_capture :
    SelectedListening selected ∧ selected.capture.records = [] ∧ SelectedListening sixRecords ∧
      sixRecords.capture.records ≠ [] := by decide +kernel

theorem witness_setMode :
    SelectedListening selected ∧ 2 ≤ (2 : Byte).toNat ∧ (1 : Byte).toNat ≤ 1 ∧ selected.hostPort.head = none := by decide +kernel

theorem witness_flushRelease :
    let s := { boardHeld with link := selected.link }
    SelectedListening s ∧ ¬((16 : Byte).toNat ≤ 15 ∨ (16 : Byte) = 0xFF) ∧ ¬((254 : Byte).toNat ≤ 15 ∨ (254 : Byte) = 0xFF) ∧
      ((15 : Byte).toNat ≤ 15 ∨ (15 : Byte) = 0xFF) ∧ PoolSettled s ∧ s.hostPort.head = none ∧
      (heldRecords s.pool).filter (flushNames 0xFF) ≠ [] := by decide +kernel

theorem witness_flushRefuse :
    SelectedListening sixRecords ∧ sixRecords.hostPort.head = none ∧ RingInRange sixRecords ∧
      (⟨3, .held (heldOf (readOf 3 0 0 1) 2 .none)⟩ : PoolEntry) ∈ sixRecords.pool ∧
      flushNames 2 (heldOf (readOf 3 0 0 1) 2 .none) = true := by decide +kernel

theorem witness_executorRefusals :
    SelectedListening committing ∧ (List.replicate 48 (0 : Byte)).length ≤ 48 ∧
      (0x17 : Byte) ∉ ([0x01, 0x02, 0x10, 0x11, 0x12, 0x13, 0x14, 0x15, 0x16, 0x18, 0x19, 0x20, 0x21, 0x28, 0x30, 0x31,
        0x38, 0x39, 0x3A] : List Byte) ∧
      (List.replicate 10 (0 : Byte)).length ≠ Command.writeAccount.payloadLength ∧
      payloadInRange .status [2] = false ∧ [(2 : Byte)].length = Command.status.payloadLength ∧
      payloadInRange .commit [] = true ∧ Command.commit.refusedWhilePending = true ∧
      committing.store.commitPending = true := by decide +kernel

/-- Station 7, and a station strapped to 31. -/
theorem witness_select :
    let s := { base with power := { base.power with station := 31 } }
    Listening base ∧ (0x1F : Byte).toNat = 31 ∧ (7 : Byte).toNat ≠ 31 ∧ (7 : Byte).toNat = base.power.station.toNat ∧
      (0x27 : Byte).toNat ≠ base.power.station.toNat ∧ Listening s ∧ (30 : Byte).toNat ≠ s.power.station.toNat := by decide +kernel

/-- Frames at their boundaries: no length yet; two of two payload bytes; one of two. -/
def frameAt (n : Option Nat) (p : List Byte) : Frame :=
  { code := 0x38, length := n, payload := p, sum := 0x38 }

/-- A waiting station with a whole character to come on MDI. -/
theorem witness_characterOnMdi :
    let s := { selected with mdi := characterLevels 16 0x38 false ++ [false] }
    Listening s ∧ s.pending = [] ∧ s.link.receiver = .ready ∧ s.link.lowFor = 0 ∧
      [16, 64, 256, 1024].getD s.power.rate.toNat 0 = 16 ∧ s.link.state = .selected ∧ s.mdi.length = 177 := by decide +kernel

theorem witness_dataCharacter :
    Listening base ∧ base.link.state = .unselected ∧ (linked .selected base).link.state = .selected ∧
      (linked (.discarding true) base).link.state = .discarding true ∧
      (linked (.responding turning) base).link.state = .responding turning ∧
      (linked (.receiving (frameAt none [])) base).link.state = .receiving (frameAt none []) ∧
      (frameAt none []).length = none ∧ (48 : Byte).toNat ≤ 48 ∧ 48 < (49 : Byte).toNat ∧
      (frameAt (some 2) [1]).length = some 2 ∧ (frameAt (some 2) [1]).payload.length < 2 ∧
      2 ≤ (frameAt (some 2) [1, 1]).payload.length ∧ (frameAt (some 2) [1, 1]).sum + 0xC9 ≠ 0 ∧
      (frameAt (some 2) [1, 1]).sum + 0xC8 = 0 := by decide +kernel

/-- A frame whose gap timer stands at n, at 16 REFCLK cycles a bit: 528 cycles are 3 character times. -/
def gapAt (n : Nat) : State :=
  let s := linked (.receiving (frameAt none [])) base
  { s with link := { s.link with gapTimer := n } }

/-- R164: a start bit that begins exactly 3 character times after the last character is in time; without one the frame times
out at that moment. -/
theorem test_gap_timer :
    (refclkCycle (gapAt 526)).link.state = .receiving (frameAt none []) ∧ (refclkCycle (gapAt 526)).link.gapTimer = 527 ∧
      (refclkCycle (gapAt 527)).link.state = .selected ∧ (refclkCycle (gapAt 527)).link.errors = 1 ∧
      (refclkCycle { gapAt 527 with mdi := [true, false] }).link.state = .receiving (frameAt none []) := by decide +kernel

theorem witness_framingErrorTimeoutBreak :
    Listening base ∧ base.link.state = .unselected ∧ (linked .broadcast base).link.state = .broadcast ∧
      Listening (linked (.receiving (frameAt none [])) base) ∧ Listening (linked (.broadcastReceiving (frameAt none [])) base) ∧
      Listening (linked (.discarding true) base) ∧ Listening (linked (.responding turning) base) ∧ Running base ∧
      (ran .linkBreak selected).link.inBreak = true := by decide +kernel

theorem witness_gapTimer :
    let gap := 3 * (11 * [16, 64, 256, 1024].getD (0 : BitVec 2).toNat 0)
    let low := { selected with link := { selected.link with lowFor := 351 }, mdi := [false] }
    let open' := { selected with link := { selected.link with receiver := .unsettled } }
    Listening (gapAt 526) ∧ (gapAt 526).pending = [] ∧ (gapAt 526).link.state = .receiving (frameAt none []) ∧
      LineQuiet (gapAt 526) ∧ step (gapAt 526) = .next (refclkCycle (gapAt 526)) ∧ 526 + 1 < gap ∧
      Listening (gapAt 527) ∧ step (gapAt 527) = .next (refclkCycle (gapAt 527)) ∧ gap ≤ 527 + 1 ∧
      (gapAt 527).link.receiver = .ready ∧ step low = .next (refclkCycle low) ∧
      low.link.lowFor + 1 = 2 * (11 * [16, 64, 256, 1024].getD (0 : BitVec 2).toNat 0) ∧ Listening open' ∧
      open'.mdi = [] ∧ step open' = .next (refclkCycle open') ∧ startBitBegun open'.link.receiver = true := by
  refine ⟨by decide +kernel, rfl, rfl, by decide +kernel, rfl, by decide +kernel, by decide +kernel, rfl, by decide +kernel,
    rfl, rfl, by decide +kernel, by decide +kernel, rfl, rfl, rfl⟩

/-- The last cycle of a turnaround at 16 REFCLK cycles a bit. -/
theorem witness_response :
    let s := linked (.responding turning) base
    ClockRunning s ∧ s.link.state = .responding turning ∧ turning.begun = false ∧ turning.sent = 0 ∧ begun.begun = true ∧
      turning.turnaround + 1 = 11 * [16, 64, 256, 1024].getD s.power.rate.toNat 0 ∧ s.pending = [] ∧
      turning.payload.length ≤ 48 ∧ step s = .next (refclkCycle s) ∧ LineQuiet s := by
  refine ⟨by decide +kernel, rfl, rfl, rfl, rfl, by decide +kernel, rfl, by decide +kernel, rfl, by decide +kernel⟩

/-- The last cycle of the length byte, and of the check byte, of an empty response. -/
theorem witness_responseCharacters :
    let at' := fun n : Nat =>
      let s := linked (.responding { begun with sent := n }) base
      { s with link := { s.link with mdo := some { byte := 0, elapsed := 175 } } }
    ClockRunning (at' 1) ∧ LineQuiet (at' 1) ∧ (at' 1).pending = [] ∧ (responseFrame begun)[2]? = some 0 ∧
      175 + 1 = 11 * [16, 64, 256, 1024].getD (at' 1).power.rate.toNat 0 ∧ 2 + 1 = (responseFrame begun).length ∧
      (refclkCycle (at' 1)).link.mdo = some { byte := 0, elapsed := 0 } ∧
      (refclkCycle (at' 2)).link.state = .selected := by decide +kernel

theorem witness_broadcast :
    BroadcastListening (linked .broadcast base) ∧ isReadRow (.readCountersClear 0) = true ∧
      isWriteRow (.flushRefuse 0xFF) = true ∧ base.link.state = .unselected ∧
      (isReadRow .commit || isWriteRow .commit) = true := by decide +kernel

/-- One state that meets every invariant, with a step that stores, holds, issues or publishes. -/
def lawful : State := { covered with pending := [.mPortReadyEvent] }

theorem witness_invariants :
    BalancesBounded lawful ∧ SlotsDistinct lawful ∧ HeldCountsAgree lawful ∧ PairsDistinct lawful ∧
      OutstandingCountsAgree lawful ∧ OutstandingBounded lawful ∧ EmptyBeforeRunning lawful ∧ PoolSettled lawful ∧
      HeadJudged lawful ∧ StoreSound lawful ∧ StoreInRange lawful ∧ GridInRange lawful ∧ RingInRange lawful ∧
      GlobalCountersInRange lawful ∧ linkSound lawful = true ∧ receiverSound lawful = true ∧
      ResetSourcesAgree lawful ∧ discardSound lawful = true := by decide +kernel

theorem witness_invariants_step :
    WaitingResponseMatched lawful ∧ RingConsecutive lawful ∧ AccountCountersInRange lawful ∧
      step lawful = .next (ran .mPortReadyEvent covered) := by
  have hr : lawful.memPort.resp = none := rfl
  have hc : lawful.capture.records = [] := rfl
  have hk : ∀ a : AccountIndex, (accountOf lawful a).counters = Counters.zero := by decide +kernel
  refine ⟨fun _ r h => ?_, fun i r h => ?_, fun a => ?_, rfl⟩
  · simp [hr] at h
  · simp [hc] at h
  · rw [hk a]; decide

/-- A frame whose payload is complete. -/
theorem witness_linkSound :
    linkSound (linked (.receiving { code := 0x38, length := some 1, payload := [1], sum := 0x3A }) base) = true := by
  decide +kernel

/-- SET_MODE at a SELECTED station; a byte of another frame; an unknown command at its longest. -/
theorem witness_alertCauses :
    selected.link.state = .selected ∧ exec (.setMode 0) selected = .next (ran (.setMode 0) selected) ∧
      (Instr.unknownCommand 0x17 (List.replicate 48 0)).wellFormed = true ∧
      (frameAt none []).code ≠ 0x39 ∧ (frameAt none []).code ≠ 0x3A ∧ base.alert.causes = 0x10 := by
  refine ⟨rfl, rfl, by decide +kernel, by decide, by decide, by decide⟩

end Sys2Proof.Tests
end

