-- ==== Sys2Proof/Proofs/Accounts.lean ====
section
/-! SUPPORT. One account after each operation of the Account Table, and the counters of an account in their ranges. -/

namespace Sys2Proof.Machine

variable (s : State)

/-! ### What an operation leaves of an account -/

@[simp] theorem countRefusal_balance (c : Cause) (acc : Account) : (countRefusal c acc).balance = acc.balance := by
  cases c <;> rfl
@[simp] theorem countRefusal_outstanding (c : Cause) (acc : Account) :
    (countRefusal c acc).outstanding = acc.outstanding := by cases c <;> rfl
@[simp] theorem countRefusal_held (c : Cause) (acc : Account) : (countRefusal c acc).held = acc.held := by
  cases c <;> rfl

@[simp] theorem chargeAccount_outstanding (x : Bool) (c : Nat) (acc : Account) :
    (chargeAccount x c acc).outstanding = acc.outstanding := by cases x <;> rfl
@[simp] theorem chargeAccount_held (x : Bool) (c : Nat) (acc : Account) :
    (chargeAccount x c acc).held = acc.held := by cases x <;> rfl

/-- No charge raises a balance (R6, R7). -/
theorem chargeAccount_balance_le (x : Bool) (c : Nat) (acc : Account) :
    (chargeAccount x c acc).balance ≤ acc.balance := by
  cases x
  · exact Nat.sub_le _ _
  · exact Nat.sub_le _ _

/-! ### The account an event changes -/

/-- What an operation leaves of an account, an update by it leaves of every account. -/
theorem updateAccount_keeps {α : Type} (part : Account → α) {f : Account → Account}
    (hf : ∀ acc, part (f acc) = part acc) (a b : AccountIndex) :
    part (accountOf (updateAccount a f s) b) = part (accountOf s b) := by
  rw [accountOf_updateAccount]
  split
  next hb => rw [hf, hb]
  next => rfl

/-- A refusal changes the account of the record refused (R82). -/
theorem accountOf_recordRefusal (r : HeldRecord × Cause) (b : AccountIndex) :
    accountOf (recordRefusal s r) b =
      if r.1.account = b then countRefusal r.2 (countUnhold (accountOf s b)) else accountOf s b := by
  have h : accountOf (recordRefusal s r) b =
      accountOf (updateAccount r.1.account (fun acc => countRefusal r.2 (countUnhold acc)) s) b :=
    accountOf_congr (by unfold recordRefusal; simp) b
  rw [h, accountOf_updateAccount]
  split
  next hb => rw [hb]
  next => rfl

/-- The taking of a head as HELD changes its account (R14, R15). -/
theorem accountOf_takeHeld (q : Request) (a : AccountIndex) (k : Blocker) (i : SlotIndex) (b : AccountIndex) :
    accountOf (takeHeld q a k i s) b = if a = b then countHold (accountOf s b) else accountOf s b := by
  refine (accountOf_updateAccount _ a b countHold).trans ?_
  split
  next hb => rw [hb]; rfl
  next => rfl

/-- The taking of a head as REFUSING counts the refusal to its account, where it has one (R15, R68). -/
theorem accountOf_takeRefusing (q : Request) (c : Cause) (a : Option AccountIndex) (i : SlotIndex)
    (b : AccountIndex) :
    accountOf (takeRefusing q c a i s) b =
      if a = some b then countRefusal c (accountOf s b) else accountOf s b := by
  cases a with
  | none => exact accountOf_congr (by unfold takeRefusing; simp) b
  | some a =>
    have h : accountOf (takeRefusing q c (some a) i s) b = accountOf (updateAccount a (countRefusal c) s) b :=
      accountOf_congr (by unfold takeRefusing; simp; rfl) b
    rw [h, accountOf_updateAccount]
    by_cases hab : a = b
    · simp [hab]
    · simp [hab]

@[simp] theorem takeRefusing_hostPort (q : Request) (c : Cause) (a : Option AccountIndex) (i : SlotIndex) :
    (takeRefusing q c a i s).hostPort = { s.hostPort with head := none } := by
  unfold takeRefusing; cases a <;> simp

@[simp] theorem takeRefusing_capture (q : Request) (c : Cause) (a : Option AccountIndex) (i : SlotIndex) :
    (takeRefusing q c a i s).capture = s.capture.add (captureRecordOf s q c a) := by
  unfold takeRefusing; cases a <;> simp <;> rfl

/-! ### After reset -/

theorem accountOf_reset (a : AccountIndex) : accountOf State.reset a = Account.powerOn := by
  simp [accountOf, State.reset]

theorem liveParams_reset (a : AccountIndex) : liveParams State.reset a = AccountParams.powerOn := by
  simp [liveParams, State.reset, Configuration.powerOn]

/-! ### Counters in their ranges -/

/-- The nine counters of an account lie in their ranges (section 1.1, R15, R179). -/
def CountersInRange (k : Counters) : Prop :=
  k.issuedRequests ≤ Config.counterMax ∧ k.issuedBeats ≤ Config.counterMax ∧ k.holds ≤ Config.counterMax ∧
    k.creditRefusals ≤ Config.counterMax ∧ k.expiries ≤ Config.counterMax ∧ k.flushRefusals ≤ Config.counterMax ∧
    k.overdrawCredits ≤ Config.counterMax ∧ k.peakHeld ≤ 24 ∧ k.peakWait ≤ Config.byteMax

theorem accountCountersInRange_iff :
    Safety.AccountCountersInRange s ↔ ∀ a : AccountIndex, CountersInRange (accountOf s a).counters := Iff.rfl

/-- A saturating addition stays within its limit. -/
theorem satAdd_le (limit a b : Nat) : satAdd limit a b ≤ limit := Nat.min_le_right _ _

/-- An event counter saturates at its maximum (R15). -/
theorem bump_le (old amount : Nat) : bump old amount ≤ Config.counterMax := satAdd_le _ _ _

variable {acc : Account}

theorem CountersInRange.zero : CountersInRange Counters.zero := by unfold CountersInRange; decide

theorem CountersInRange.chargeAccount (h : CountersInRange acc.counters) (x : Bool) (c : Nat) :
    CountersInRange (chargeAccount x c acc).counters := by
  cases x with
  | false =>
    obtain ⟨hr, hb, ho, hc, he, hf, -, hp, hw⟩ := h
    exact ⟨hr, hb, ho, hc, he, hf, bump_le _ _, hp, hw⟩
  | true => exact h

theorem CountersInRange.countIssue (h : CountersInRange acc.counters) (n : Nat) :
    CountersInRange (countIssue n acc).counters := by
  obtain ⟨-, -, h⟩ := h
  exact ⟨bump_le _ _, bump_le _ _, h⟩

theorem CountersInRange.countRefusal (h : CountersInRange acc.counters) (c : Cause) :
    CountersInRange (countRefusal c acc).counters := by
  obtain ⟨hr, hb, ho, hc, he, hf, hv⟩ := h
  cases c with
  | credit => exact ⟨hr, hb, ho, bump_le _ _, he, hf, hv⟩
  | expired => exact ⟨hr, hb, ho, hc, bump_le _ _, hf, hv⟩
  | flushed => exact ⟨hr, hb, ho, hc, he, bump_le _ _, hv⟩
  | unmapped => exact ⟨hr, hb, ho, hc, he, hf, hv⟩
  | malformed => exact ⟨hr, hb, ho, hc, he, hf, hv⟩

/-- A hold counts within the range of peak held while a slot is left for it (R15). -/
theorem CountersInRange.countHold (h : CountersInRange acc.counters) (hn : acc.held + 1 ≤ 24) :
    CountersInRange (countHold acc).counters := by
  obtain ⟨hr, hb, -, hc, he, hf, ho, hp, hw⟩ := h
  exact ⟨hr, hb, bump_le _ _, hc, he, hf, ho, Nat.max_le.mpr ⟨hp, hn⟩, hw⟩

/-- A peak wait follows waits that saturate at 255 (R16, R85). -/
theorem CountersInRange.raisePeakWait {k : Counters} (h : CountersInRange k) {w : Nat} (hw : w ≤ Config.byteMax) :
    CountersInRange { k with peakWait := max k.peakWait w } := by
  obtain ⟨hr, hb, ho, hc, he, hf, hv, hp, hk⟩ := h
  exact ⟨hr, hb, ho, hc, he, hf, hv, hp, Nat.max_le.mpr ⟨hk, hw⟩⟩

end Sys2Proof.Machine
end

