-- ==== Sys2Proof/Proofs/Counts.lean ====
section
/-! SUPPORT. The number of HELD records of an account, and what each change of the pool makes of it; a slot's entry as the
place where the pool splits. -/

namespace Sys2Proof.Machine

open Sys2Proof.Safety

variable {s : State}

/-- The number of HELD records of an account (R14). -/
def heldCount (es : List PoolEntry) (a : AccountIndex) : Nat :=
  ((heldRecords es).filter fun h => h.account == a).length

theorem heldCountsAgree_iff : HeldCountsAgree s ↔ ∀ a, (accountOf s a).held = heldCount s.pool a := Iff.rfl

@[simp] theorem heldCount_nil (a : AccountIndex) : heldCount [] a = 0 := rfl

@[simp] theorem heldCount_cons_held (i : SlotIndex) (h : HeldRecord) (es : List PoolEntry) (a : AccountIndex) :
    heldCount (⟨i, .held h⟩ :: es) a = (if h.account = a then 1 else 0) + heldCount es a := by
  unfold heldCount heldRecords
  by_cases ha : h.account = a
  · simp [ha, Nat.add_comm]
  · simp [ha]

@[simp] theorem heldCount_cons_refusing (i : SlotIndex) (r : RefusingRecord) (es : List PoolEntry)
    (a : AccountIndex) : heldCount (⟨i, .refusing r⟩ :: es) a = heldCount es a := rfl

@[simp] theorem heldCount_append (es fs : List PoolEntry) (a : AccountIndex) :
    heldCount (es ++ fs) a = heldCount es a + heldCount fs a := by
  simp [heldCount, heldRecords]

/-- An account has at most as many HELD records as the pool has entries. -/
theorem heldCount_le_length (es : List PoolEntry) (a : AccountIndex) : heldCount es a ≤ es.length :=
  (List.length_filter_le _ _).trans (List.length_filterMap_le _ _)

/-- A release keeps the count (R89). -/
theorem heldCount_map_releaseEntry (x : Option AccountIndex) (es : List PoolEntry) (a : AccountIndex) :
    heldCount (es.map (releaseEntry x)) a = heldCount es a := by
  induction es with
  | nil => rfl
  | cons e es ih =>
    obtain ⟨i, _ | _⟩ := e
    · simp only [List.map_cons, releaseEntry]
      split <;> simp [ih]
    · simp [releaseEntry, ih]

/-- Ageing keeps the count (R85). -/
theorem heldCount_map_ageEntry (es : List PoolEntry) (a : AccountIndex) :
    heldCount (es.map ageEntry) a = heldCount es a := by
  induction es with
  | nil => rfl
  | cons e es ih =>
    obtain ⟨i, _ | _⟩ := e
    · simp [ageEntry, ageRecord, ih]
    · simp [ageEntry, ih]

theorem releaseEntry_slot (x : Option AccountIndex) (e : PoolEntry) : (releaseEntry x e).slot = e.slot := by
  unfold releaseEntry; repeat' split
  all_goals rfl

theorem releaseEntry_pair (x : Option AccountIndex) (e : PoolEntry) :
    recordPair (releaseEntry x e).record = recordPair e.record := by
  obtain ⟨i, _ | _⟩ := e
  · simp only [releaseEntry]; split <;> rfl
  · rfl

theorem ageEntry_slot (e : PoolEntry) : (ageEntry e).slot = e.slot := by
  unfold ageEntry; split <;> rfl

theorem ageEntry_pair (e : PoolEntry) : recordPair (ageEntry e).record = recordPair e.record := by
  obtain ⟨i, _ | _⟩ := e <;> rfl

/-! ### Refusals -/

/-- The number of an account's records among those refused at an event (R82). -/
def refusedCount (rs : List (HeldRecord × Cause)) (a : AccountIndex) : Nat :=
  (rs.filter fun r => r.1.account == a).length

@[simp] theorem refusedCount_nil (a : AccountIndex) : refusedCount [] a = 0 := rfl

@[simp] theorem refusedCount_cons (r : HeldRecord × Cause) (rs : List (HeldRecord × Cause)) (a : AccountIndex) :
    refusedCount (r :: rs) a = (if r.1.account = a then 1 else 0) + refusedCount rs a := by
  unfold refusedCount
  by_cases ha : r.1.account = a
  · simp [ha, Nat.add_comm]
  · simp [ha]

/-- A HELD record judged either stays HELD or is among the refused (R80). -/
theorem judgePool_heldCount (s : State) (o : Occasion) (older : List HeldRecord) (es : List PoolEntry)
    (a : AccountIndex) :
    heldCount (judgePool s o older es).1 a + refusedCount (judgePool s o older es).2 a = heldCount es a := by
  induction es generalizing older with
  | nil => rfl
  | cons e rest ih =>
    obtain ⟨i, h | r⟩ := e
    · cases hj : judge s o h older with
      | keep b =>
        have := ih (older ++ [{ h with blocker := b }])
        simp only [judgePool, hj, heldCount_cons_held]
        omega
      | refuse c =>
        have := ih older
        simp only [judgePool, hj, heldCount_cons_held, heldCount_cons_refusing, refusedCount_cons]
        omega
    · exact ih older

/-- Every refusal of an event takes one from its account's held count (R82, R14). -/
theorem foldl_recordRefusal_held (rs : List (HeldRecord × Cause)) (s : State) (a : AccountIndex) :
    (accountOf (rs.foldl recordRefusal s) a).held = (accountOf s a).held - refusedCount rs a := by
  induction rs generalizing s with
  | nil => rfl
  | cons r rs ih =>
    rw [List.foldl_cons, ih, accountOf_recordRefusal, refusedCount_cons]
    split
    · simp only [countRefusal_held, countUnhold]; omega
    · omega

/-- The refusals of an event keep the counters of every account in range (R15). -/
theorem foldl_recordRefusal_counters (rs : List (HeldRecord × Cause)) (s : State) (a : AccountIndex)
    (h : CountersInRange (accountOf s a).counters) :
    CountersInRange (accountOf (rs.foldl recordRefusal s) a).counters := by
  induction rs generalizing s with
  | nil => exact h
  | cons r rs ih =>
    refine ih _ ?_
    rw [accountOf_recordRefusal]
    split
    · exact CountersInRange.countRefusal (acc := countUnhold (accountOf s a)) h r.2
    · exact h

/-! ### Slots -/

/-- A FREE slot holds no record of the pool (R74). -/
theorem slot_ne_of_freeSlot {i : SlotIndex} (h : freeSlot s = some i) : ∀ e ∈ s.pool, e.slot ≠ i := by
  have := List.find?_some h
  simpa using this

/-- The slots stay distinct when a FREE one is taken (R74, R78). -/
theorem slots_nodup_take {i : SlotIndex} (hd : SlotsDistinct s) (h : freeSlot s = some i) (r : PoolRecord) :
    ((s.pool ++ [(⟨i, r⟩ : PoolEntry)]).map fun e => e.slot).Nodup := by
  rw [List.map_append, List.nodup_append]
  refine ⟨hd, List.nodup_singleton _, ?_⟩
  intro x hx y hy
  obtain ⟨e, he, rfl⟩ := List.mem_map.mp hx
  obtain rfl : y = i := by simpa using hy
  exact slot_ne_of_freeSlot h e he

/-- Slots in no more than one entry are at most 24 (R74). -/
theorem length_le_of_slots_nodup {es : List PoolEntry} (h : (es.map fun e => e.slot).Nodup) : es.length ≤ 24 := by
  simpa using h.length_le_card

/-- While a slot is FREE, no account has 24 HELD records. -/
theorem heldCount_lt_of_freeSlot {i : SlotIndex} (hd : SlotsDistinct s) (h : freeSlot s = some i)
    (a : AccountIndex) : heldCount s.pool a + 1 ≤ 24 := by
  have h1 := heldCount_le_length s.pool a
  have h2 := length_le_of_slots_nodup
    (slots_nodup_take hd h (.refusing { id := 0, tag := 0, dir := .read, cause := .credit, account := none }))
  rw [List.length_append, List.length_singleton] at h2
  omega

/-- The entry of a slot splits the pool, and its removal closes up the two parts (R74, R75). -/
theorem pool_split {i : SlotIndex} {r : PoolRecord} (hd : SlotsDistinct s) (hm : ⟨i, r⟩ ∈ s.pool) :
    ∃ front back, s.pool = front ++ ⟨i, r⟩ :: back ∧ (s.pool.filter fun e => e.slot != i) = front ++ back := by
  obtain ⟨front, back, hp⟩ := List.append_of_mem hm
  refine ⟨front, back, hp, ?_⟩
  have hne : ∀ e ∈ front ++ back, e.slot ≠ i := by
    unfold SlotsDistinct at hd
    rw [hp, List.map_append, List.map_cons, List.nodup_middle, List.nodup_cons, ← List.map_append] at hd
    intro e he hc
    exact hd.1 (List.mem_map.mpr ⟨e, he, hc⟩)
  rw [hp, List.filter_append, List.filter_cons_of_neg (by simp), ← List.filter_append, List.filter_eq_self]
  intro e he
  simpa using hne e he

/-- No aged record has waited more than 255 slice boundaries (R85, R16). -/
theorem greatestWait_aged_le (es : List PoolEntry) (a : AccountIndex) :
    greatestWait (es.map ageEntry) a ≤ Config.byteMax := by
  have hw : ∀ h ∈ heldRecords (es.map ageEntry), h.wait ≤ Config.byteMax := by
    intro h hh
    obtain ⟨e, he, hr⟩ := List.mem_filterMap.mp hh
    obtain ⟨⟨i, g | r⟩, -, rfl⟩ := List.mem_map.mp he
    · obtain rfl : ageRecord g = h := by simpa [ageEntry] using hr
      exact satAdd_le _ _ _
    · simp [ageEntry] at hr
  have hfold : ∀ (ws : List Nat) (m : Nat), m ≤ Config.byteMax → (∀ w ∈ ws, w ≤ Config.byteMax) →
      ws.foldl max m ≤ Config.byteMax := by
    intro ws
    induction ws with
    | nil => exact fun m hm _ => hm
    | cons w ws ih =>
      intro m hm hws
      exact ih _ (Nat.max_le.mpr ⟨hm, hws w (by simp)⟩) fun x hx => hws x (by simp [hx])
  refine hfold _ 0 (Nat.zero_le _) ?_
  intro w hwm
  obtain ⟨h, hh, rfl⟩ := List.mem_map.mp hwm
  exact hw h (List.mem_of_mem_filter hh)

end Sys2Proof.Machine
end

