-- ==== Sys2Proof/Proofs/Ring.lean ====
section
/-! SUPPORT. The Capture Ring: an add and the removal of the oldest records keep it in range, with consecutive sequence
numbers (R143, R145, R146, R148). -/

namespace Sys2Proof.Machine

open Sys2Proof.Safety

/-- At most 8 records with consecutive sequence numbers that end just before the sequence count; the counts in range
(R143, R145). -/
structure RingSound (ring : CaptureRing) : Prop where
  length : ring.records.length ≤ Config.captureMax
  lost : ring.lost ≤ 255
  seq : ring.seq < 65536
  consecutive : ∀ i : Nat, ∀ r : CaptureRecord, ring.records[i]? = some r →
    (r.seq + (ring.records.length - i)) % Config.wrap16 = ring.seq

theorem ringSound_iff (s : State) : RingSound s.capture ↔ RingInRange s ∧ RingConsecutive s :=
  ⟨fun h => ⟨⟨h.length, h.lost, h.seq⟩, h.consecutive⟩, fun ⟨⟨hl, ho, hs⟩, hc⟩ => ⟨hl, ho, hs, hc⟩⟩

variable {ring : CaptureRing}

/-- The oldest records can go, with the lost count kept or lowered (R146, R148). -/
theorem RingSound.drop (h : RingSound ring) (n : Nat) {k : Nat} (hk : k ≤ ring.lost) :
    RingSound { ring with records := ring.records.drop n, lost := k } where
  length := by rw [List.length_drop]; exact (Nat.sub_le _ _).trans h.length
  lost := hk.trans h.lost
  seq := h.seq
  consecutive := by
    intro i r hr
    rw [List.getElem?_drop] at hr
    have hc := h.consecutive (n + i) r hr
    rwa [List.length_drop, Nat.sub_sub]

/-- A record with the next sequence number follows those of a ring with room (R145). -/
theorem RingSound.append (h : RingSound ring) {r : CaptureRecord} (hr : r.seq = ring.seq)
    (hroom : ring.records.length < Config.captureMax) {k : Nat} (hk : k ≤ 255) :
    RingSound { records := ring.records ++ [r], lost := k, seq := (ring.seq + 1) % Config.wrap16 } where
  length := by simpa using hroom
  lost := hk
  seq := Nat.mod_lt _ (by decide)
  consecutive := by
    intro i x hx
    rw [List.length_append, List.length_singleton]
    rcases Nat.lt_or_ge i ring.records.length with hi | hi
    · rw [List.getElem?_append_left hi] at hx
      have hc := h.consecutive i x hx
      have he : x.seq + (ring.records.length + 1 - i) = x.seq + (ring.records.length - i) + 1 := by omega
      rw [he, ← Nat.mod_add_mod, hc]
    · rw [List.getElem?_append_right hi] at hx
      have hi0 : i - ring.records.length = 0 := by
        by_contra hne
        rw [List.getElem?_eq_none (by simp; omega)] at hx
        simp at hx
      obtain rfl : r = x := by simpa [hi0] using hx
      have he : ring.records.length + 1 - i = 1 := by omega
      rw [he, hr]

/-- An add keeps the ring (R145). -/
theorem RingSound.add (h : RingSound ring) {r : CaptureRecord} (hr : r.seq = ring.seq) : RingSound (ring.add r) := by
  unfold CaptureRing.add
  split
  next hroom => exact h.append hr hroom h.lost
  next hfull =>
    have hlen := h.length
    refine (h.drop 1 le_rfl).append (r := r) hr ?_ (satAdd_le _ _ _)
    rw [List.length_drop]
    unfold Config.captureMax at *
    omega

/-- The refusals of an event keep the ring (R82, R145). -/
theorem ringSound_foldl_recordRefusal (rs : List (HeldRecord × Cause)) (s : State) (h : RingSound s.capture) :
    RingSound (rs.foldl recordRefusal s).capture := by
  induction rs generalizing s with
  | nil => exact h
  | cons r rs ih =>
    refine ih _ ?_
    unfold recordRefusal
    rw [captureAdd_capture, updateAccount_capture]
    exact h.add (by simp [captureRecordOf])

end Sys2Proof.Machine
end

