-- ==== Sys2Proof/Proofs/Changes.lean ====
section
/-! SUPPORT. What a step can do to accounts, pool, Outstanding Table and Capture Ring, said once: every step is a chain of the
elementary changes below. An invariant that each of them keeps is kept by every step (`step_keeps`). -/

namespace Sys2Proof.Machine

open Sys2Proof.Safety

-- One declaration at a time: elaborated side by side, the text outgrows the memory of the check.
set_option Elab.async false

variable {s t u : State}

/-! ### An issue from the pool, and a delivery, before settling -/

/-- A HELD record is issued: it is charged and entered in the Outstanding Table, and leaves the pool (R96, R103). -/
def heldIssued (i : SlotIndex) (h : HeldRecord) (s : State) : State :=
  updateAccount h.account countUnhold (removeSlot i (issueRequest h.req h.account h.exempt s))

/-- A memory response is sent to the host and its entry leaves the Outstanding Table (R112). -/
def responseTaken (r : MemoryResponse) (s : State) : State :=
  let delivered : State :=
    { s with
      hostPort := { s.hostPort with sent := some (hostResponseOf r) }
      memPort := { s.memPort with resp := none }
      outstanding := s.outstanding.filter fun e => !(e.id == r.id && e.tag == r.tag)
      merger := .refusal }
  match entryAccount s r.id r.tag with
  | some a => updateAccount a countDelivery delivered
  | none => delivered

/-- An issue of a HELD record changes its account alone (R6 to R8, R14). -/
theorem accountOf_heldIssued (i : SlotIndex) (h : HeldRecord) (s : State) (b : AccountIndex) :
    accountOf (heldIssued i h s) b =
      if h.account = b
      then countUnhold (countIssue h.req.len
        (chargeAccount (restrained s b && !h.exempt) (cost (liveParams s b) h.req) (accountOf s b)))
      else accountOf s b := by
  have hr : ∀ c, accountOf (removeSlot i (issueRequest h.req h.account h.exempt s)) c =
      accountOf (issueRequest h.req h.account h.exempt s) c := fun _ => rfl
  unfold heldIssued
  rw [accountOf_updateAccount]
  simp only [hr, accountOf_issueRequest]
  by_cases hb : h.account = b
  · simp [hb]
  · simp [hb]

/-- A delivery changes the account of the entry it takes (R13, R112). -/
theorem accountOf_responseTaken (r : MemoryResponse) (s : State) (b : AccountIndex) :
    accountOf (responseTaken r s) b =
      if entryAccount s r.id r.tag = some b then countDelivery (accountOf s b) else accountOf s b := by
  unfold responseTaken
  dsimp only
  cases entryAccount s r.id r.tag with
  | none => rfl
  | some a =>
    simp only [accountOf_updateAccount, Option.some.injEq]
    by_cases hb : a = b
    · rw [if_pos hb, if_pos hb, hb]; rfl
    · rw [if_neg hb, if_neg hb]; rfl

@[simp] theorem responseTaken_hostPort (r : MemoryResponse) (s : State) :
    (responseTaken r s).hostPort = { s.hostPort with sent := some (hostResponseOf r) } := by
  unfold responseTaken; dsimp only; split <;> rfl
@[simp] theorem responseTaken_memPort (r : MemoryResponse) (s : State) :
    (responseTaken r s).memPort = { s.memPort with resp := none } := by
  unfold responseTaken; dsimp only; split <;> rfl
@[simp] theorem responseTaken_pool (r : MemoryResponse) (s : State) : (responseTaken r s).pool = s.pool := by
  unfold responseTaken; dsimp only; split <;> rfl
@[simp] theorem responseTaken_outstanding (r : MemoryResponse) (s : State) :
    (responseTaken r s).outstanding = s.outstanding.filter fun e => !(e.id == r.id && e.tag == r.tag) := by
  unfold responseTaken; dsimp only; split <;> rfl
@[simp] theorem responseTaken_store (r : MemoryResponse) (s : State) : (responseTaken r s).store = s.store := by
  unfold responseTaken; dsimp only; split <;> rfl
@[simp] theorem responseTaken_capture (r : MemoryResponse) (s : State) : (responseTaken r s).capture = s.capture := by
  unfold responseTaken; dsimp only; split <;> rfl
@[simp] theorem responseTaken_link (r : MemoryResponse) (s : State) : (responseTaken r s).link = s.link := by
  unfold responseTaken; dsimp only; split <;> rfl

/-! ### The elementary changes -/

/-- A change that leaves accounts, pool, table, ring and live configuration as they are, keeps the global counters in range,
and leaves no unmatched response waiting. -/
structure Bookkeeping (s t : State) : Prop where
  accounts : t.accounts = s.accounts := by rfl
  pool : t.pool = s.pool := by rfl
  outstanding : t.outstanding = s.outstanding := by rfl
  capture : t.capture = s.capture := by rfl
  live : t.store.live = s.store.live := by rfl
  counters : GlobalCountersInRange s → GlobalCountersInRange t := by exact id
  matched : WaitingResponseMatched s → WaitingResponseMatched t := by exact id

/-- One elementary change, with what the event that makes it has checked. -/
inductive Change (s : State) : State → Prop
  | bookkeeping {t : State} (b : Bookkeeping s t) : Change s t
  | reset (src : ResetSource) : Change s (powerOnState src s)
  | hold (q : Request) (a : AccountIndex) (b : Blocker) (i : SlotIndex) (free : freeSlot s = some i)
      (fresh : tagConflict s q = false) : Change s (takeHeld q a b i s)
  | refuse (q : Request) (c : Cause) (a : Option AccountIndex) (i : SlotIndex) (free : freeSlot s = some i)
      (fresh : tagConflict s q = false) : Change s (takeRefusing q c a i s)
  | issueHead (q : Request) (a : AccountIndex) (room : s.outstanding.length < Config.outstandingMax)
      (fresh : tagConflict s q = false) : Change s (issueRequest q a false s)
  | issueHeld (i : SlotIndex) (h : HeldRecord) (room : s.outstanding.length < Config.outstandingMax)
      (mem : ⟨i, .held h⟩ ∈ s.pool) : Change s (heldIssued i h s)
  | takeResponse (r : MemoryResponse) : Change s (responseTaken r s)
  | freeRefusing (i : SlotIndex) (r : RefusingRecord) (mem : ⟨i, .refusing r⟩ ∈ s.pool) : Change s (removeSlot i s)
  | judge (o : Occasion) : Change s (reevaluatePool o s)
  | release (x : Option AccountIndex) : Change s (releaseRecords x s)
  | boundary : Change s (beforeExpiry s)
  | restart : Change s (restartFilled s)
  | clearCounters (a : AccountIndex) : Change s (updateAccount a clearCounters s)
  | dropCaptures (n k : Nat) (hk : k ≤ s.capture.lost) :
      Change s { s with capture := { s.capture with records := s.capture.records.drop n, lost := k } }

/-- A chain of elementary changes. -/
abbrev Changes : State → State → Prop := Relation.ReflTransGen Change

theorem Changes.one (c : Change s t) : Changes s t := .single c

theorem Changes.bookkeeping (b : Bookkeeping s t) : Changes s t := .one (.bookkeeping b)

/-- What every elementary change keeps, every chain keeps. -/
theorem Changes.keeps {P : State → Prop} (hP : ∀ {s t}, Change s t → P s → P t) (h : Changes s t) (hs : P s) : P t := by
  induction h with
  | refl => exact hs
  | tail _ c ih => exact hP c ih

/-! ### Bookkeeping -/

theorem bookkeeping_countLinkError (s : State) : Bookkeeping s (countLinkError s) where
  counters := fun ⟨ht, hw, hm, _⟩ => ⟨ht, hw, hm, satAdd_le _ _ _⟩

theorem bookkeeping_enterTagWait (h : Head) (s : State) : Bookkeeping s (enterTagWait h s) := by
  unfold enterTagWait
  split
  · exact {}
  · exact { counters := fun ⟨_, hw, hm, he⟩ => ⟨satAdd_le _ _ _, hw, hm, he⟩ }

theorem bookkeeping_enterSlotWait (h : Head) (s : State) : Bookkeeping s (enterSlotWait h s) := by
  unfold enterSlotWait
  split
  · exact {}
  · exact { counters := fun ⟨ht, _, hm, he⟩ => ⟨ht, satAdd_le _ _ _, hm, he⟩ }

theorem bookkeeping_clearGlobalCounters (s : State) : Bookkeeping s (clearGlobalCounters s) where
  counters := fun _ => by unfold clearGlobalCounters GlobalCountersInRange; simp

theorem strayResponse_inRange : GlobalCountersInRange s → GlobalCountersInRange (strayResponse s) :=
  fun ⟨ht, hw, _, he⟩ => ⟨ht, hw, satAdd_le _ _ _, he⟩

/-- A response that has been matched is either in the table or gone (R107, R108). -/
theorem matchResponse_matched (s : State) : WaitingResponseMatched (matchResponse s) := by
  unfold matchResponse
  split
  next hn =>
    intro _ r hr
    simp [hn] at hr
  next r hr =>
    split
    next hm =>
      intro _ r' hr'
      obtain rfl : r = r' := by simpa [hr] using hr'
      exact hm
    next =>
      intro _ r' hr'
      simp at hr'

/-- A state that differs in what bookkeeping may change is still one of bookkeeping once its response is matched. -/
theorem bookkeeping_matchResponse (ha : t.accounts = s.accounts) (hp : t.pool = s.pool)
    (ho : t.outstanding = s.outstanding) (hc : t.capture = s.capture) (hl : t.store.live = s.store.live)
    (hk : GlobalCountersInRange s → GlobalCountersInRange t) : Bookkeeping s (matchResponse t) := by
  have hm := matchResponse_matched t
  have hcase : matchResponse t = t ∨ matchResponse t = strayResponse t := by
    unfold matchResponse; repeat' split
    all_goals simp
  rcases hcase with h | h
  · rw [h] at hm ⊢
    exact ⟨ha, hp, ho, hc, hl, hk, fun _ => hm⟩
  · rw [h] at hm ⊢
    exact ⟨by simpa, by simpa, by simpa, by simpa, by simpa, fun g => strayResponse_inRange (hk g), fun _ => hm⟩

/-! ### The head and the pool -/

/-- A head whose disposition is ISSUE or HOLD is not in tag conflict (R53, R56). -/
theorem tagConflict_eq_false_of_disposition {q : Request}
    (h : (∃ a, disposition s q = .issue a) ∨ ∃ a b, disposition s q = .hold a b) : tagConflict s q = false := by
  by_contra hc
  rw [Bool.not_eq_false] at hc
  unfold disposition at h
  cases hm : malformed q <;> simp [hm, hc] at h

theorem changes_judgeHead (s : State) : Changes s (judgeHead s) := by
  unfold judgeHead
  split
  · exact .refl
  next h _ =>
    split
    · exact .bookkeeping (bookkeeping_enterTagWait h s)
    next hc =>
      have fresh : tagConflict s h.req = false := by simpa using hc
      split
      · exact .refl
      · exact .refl
      next a b _ =>
        split
        next i hi => exact .one (.hold h.req a b i hi fresh)
        next => exact .bookkeeping (bookkeeping_enterSlotWait h s)
      next c a _ =>
        split
        next i hi => exact .one (.refuse h.req c a i hi fresh)
        next => exact .bookkeeping (bookkeeping_enterSlotWait h s)

theorem changes_judged (o : Occasion) (s : State) : Changes s (judgeHead (reevaluatePool o s)) :=
  (Changes.one (.judge o)).trans (changes_judgeHead _)

theorem changes_settle (s : State) : Changes s (settle s) := changes_judged .change s

/-! ### The ports -/

theorem changes_offerHead (r : Request) (s : State) : Changes s (offerHead r s) := by
  unfold offerHead
  split
  · exact .refl
  · dsimp only
    split
    · exact (Changes.bookkeeping {}).trans (changes_judgeHead _)
    · exact .bookkeeping {}

theorem changes_takeHeldEvent (s : State) : Changes s (takeHeldEvent s) := by
  unfold takeHeldEvent
  split
  · split
    · exact .refl
    next h _ =>
      split
      next a b i hd hi =>
        exact .one (.hold h.req a b i hi (tagConflict_eq_false_of_disposition (.inr ⟨a, b, hd⟩)))
      all_goals exact .refl
  · exact .refl

theorem changes_takeRefusingEvent (s : State) : Changes s (takeRefusingEvent s) := by
  unfold takeRefusingEvent
  split
  · split
    · exact .refl
    next h _ =>
      split
      · exact .refl
      next hc =>
        split
        next c a i _ hi => exact .one (.refuse h.req c a i hi (by simpa using hc))
        all_goals exact .refl
  · exact .refl

/-- The pick is one of the candidates (R102). -/
theorem mem_of_pickFrom {c : Candidate} {cs : List Candidate} (h : pickFrom s cs = some c) : c ∈ cs := by
  induction cs generalizing c with
  | nil => simp [pickFrom] at h
  | cons d rest ih =>
    unfold pickFrom at h
    split at h
    next => simp_all
    next e he =>
      split at h
      · obtain rfl : e = c := by simpa using h
        exact List.mem_cons_of_mem _ (ih he)
      · simp_all

/-- A candidate of the pool is a HELD record in its slot (R101). -/
theorem held_of_mem_candidates {i : SlotIndex} {h : HeldRecord} (hm : .held i h ∈ candidates s) :
    ⟨i, .held h⟩ ∈ s.pool := by
  rcases List.mem_append.mp hm with hm | hm
  · obtain ⟨⟨j, g | r⟩, he, hr⟩ := List.mem_filterMap.mp hm
    · simp only [Option.ite_none_right_eq_some, Option.some.injEq, Candidate.held.injEq] at hr
      obtain ⟨-, rfl, rfl⟩ := hr
      exact he
    · simp at hr
  · unfold headCandidate at hm
    repeat' split at hm
    all_goals simp at hm

/-- A candidate that is a head has the disposition ISSUE (R101). -/
theorem issue_of_mem_candidates {q : Request} {a : AccountIndex} (hm : .head q a ∈ candidates s) :
    disposition s q = .issue a := by
  rcases List.mem_append.mp hm with hm | hm
  · obtain ⟨⟨j, g | r⟩, -, hr⟩ := List.mem_filterMap.mp hm
    · simp at hr
    · simp at hr
  · unfold headCandidate at hm
    repeat' split at hm
    all_goals simp_all

theorem changes_mPortReady (s : State) : Changes s (mPortReady s) := by
  unfold mPortReady
  split
  next hopen =>
    have room : s.outstanding.length < Config.outstandingMax := by simp_all
    split
    next c hc =>
      have hm : c ∈ candidates s := mem_of_pickFrom hc
      cases c with
      | held i h =>
        exact (Changes.one (.issueHeld i h room (held_of_mem_candidates hm))).trans (changes_settle _)
      | head q a =>
        have fresh := tagConflict_eq_false_of_disposition (.inl ⟨a, issue_of_mem_candidates hm⟩)
        exact (Changes.one (.issueHead q a room fresh)).trans ((Changes.bookkeeping {}).trans (changes_settle _))
    next => exact .refl
  next => exact .refl

theorem changes_offerResponse (r : MemoryResponse) (s : State) : Changes s (offerResponse r s) := by
  unfold offerResponse
  split
  · exact .refl
  · dsimp only
    split
    · exact .bookkeeping (bookkeeping_matchResponse rfl rfl rfl rfl rfl id)
    next hclosed =>
      exact .bookkeeping { matched := fun _ hrun => absurd (portsOpen_of_running hrun) hclosed }

/-- A delivery of a memory response is the taking of the response, settled (R112). -/
theorem deliverMemoryResponse_eq (r : MemoryResponse) (s : State) :
    deliverMemoryResponse r s = settle (responseTaken r s) := rfl

theorem changes_deliverMemoryResponse (r : MemoryResponse) (s : State) : Changes s (deliverMemoryResponse r s) := by
  rw [deliverMemoryResponse_eq]
  exact (Changes.one (.takeResponse r)).trans (changes_settle _)

theorem changes_deliverRefusal {i : SlotIndex} {r : RefusingRecord} (h : oldestRefusing s.pool = some (i, r)) :
    Changes s (deliverRefusal i r s) := by
  obtain ⟨front, back, hp, -⟩ := oldestRefusing_split h
  have mem : ⟨i, .refusing r⟩ ∈ s.pool := by rw [hp]; simp
  exact (Changes.one (.freeRefusing i r mem)).trans ((Changes.bookkeeping {}).trans (changes_judgeHead _))

theorem changes_hPortReady (s : State) : Changes s (hPortReady s) := by
  unfold hPortReady
  split
  · split
    · exact .refl
    · exact changes_deliverMemoryResponse _ s
    next h => exact changes_deliverRefusal h
    next h =>
      split
      · exact changes_deliverMemoryResponse _ s
      · exact changes_deliverRefusal h
  · exact .refl

/-! ### The grid -/

theorem changes_sliceBoundaryEvent (s : State) : Changes s (sliceBoundaryEvent s) :=
  (Changes.one .boundary).trans (changes_judged .boundary _)

theorem changes_tickEvent (s : State) : Changes s (tickEvent s) := by
  unfold tickEvent
  split
  · exact .bookkeeping {}
  · exact changes_sliceBoundaryEvent s

theorem changes_atTick {bring : State → State} (h : ∀ s, Changes s (bring s)) (s : State) :
    Changes s (atTick bring s) := by
  unfold atTick
  split
  · split
    · exact .bookkeeping {}
    · exact h s
  · exact .refl

/-- A row that names a part of a boundary is that boundary or nothing (log 1). -/
theorem changes_boundaryWhen (due : State → Bool) (s : State) :
    Changes s (if due s then sliceBoundaryEvent s else s) := by
  split
  · exact changes_sliceBoundaryEvent s
  · exact .refl

theorem changes_gridCycle (s : State) : Changes s (gridCycle s) := by
  unfold gridCycle
  split
  · exact .bookkeeping {}
  · exact (Changes.bookkeeping {}).trans (changes_tickEvent _)

theorem changes_restartEvent (s : State) : Changes s (restartEvent s) :=
  (Changes.one .restart).trans (changes_settle _)

/-! ### The Command Executor -/

theorem changes_perform (c : Command) (p : List Byte) (s : State) : Changes s (perform c p s).1 := by
  cases c with
  | identify | readAccount | readMap | readGlobals | readHold => exact .refl
  | writeAccount | writeMap | writeGlobals | copyLiveToStaged | cancelCommit | ackAlert | setAlertEnable =>
    exact .bookkeeping {}
  | status =>
    unfold perform performStatus
    dsimp only
    split
    · exact .bookkeeping (bookkeeping_clearGlobalCounters s)
    · exact .refl
  | commit =>
    unfold perform performCommit
    dsimp only
    split
    · exact .refl
    · exact .bookkeeping {}
  | readCounters =>
    unfold perform performReadCounters
    dsimp only
    split
    · exact .one (.clearCounters _)
    · exact .refl
  | flush =>
    unfold perform performFlush
    dsimp only
    split
    · exact changes_judged _ s
    · exact (Changes.one (.release _)).trans (changes_settle _)
  | readCapture =>
    unfold perform performReadCapture
    dsimp only
    split
    · exact .refl
    next r rest h =>
      have e : rest = s.capture.records.drop 1 := by rw [h]; rfl
      rw [e]
      exact .one (.dropCaptures 1 _ le_rfl)
  | clearCapture =>
    have e : [] = s.capture.records.drop s.capture.records.length := by simp
    unfold perform performClearCapture
    dsimp only
    rw [e]
    exact .one (.dropCaptures _ 0 (Nat.zero_le _))
  | setMode => exact (Changes.bookkeeping {}).trans (changes_settle _)

theorem changes_execute (code : Byte) (p : List Byte) (s : State) : Changes s (execute code p s).1 := by
  unfold execute
  split
  · exact .refl
  · split
    · exact .refl
    · split
      · exact .refl
      · split
        · exact .refl
        · exact changes_perform _ p s

/-! ### The link -/

theorem changes_setLinkState (st : LinkState) (s : State) : Changes s (setLinkState st s) := .bookkeeping {}

theorem changes_countLinkError (s : State) : Changes s (countLinkError s) :=
  .bookkeeping (bookkeeping_countLinkError s)

theorem changes_linkError (st : LinkState) (s : State) : Changes s (setLinkState st (countLinkError s)) :=
  (changes_countLinkError s).trans (changes_setLinkState st _)

theorem changes_selectEvent (value : Byte) (s : State) : Changes s (selectEvent value s) := by
  unfold selectEvent
  split
  · exact changes_setLinkState _ s
  · exact .refl

theorem changes_completeUnicast (code : Byte) (p : List Byte) (sum : Byte) (s : State) :
    Changes s (completeUnicast code p sum s) := by
  unfold completeUnicast
  split
  · exact (changes_execute code p s).trans (changes_setLinkState _ _)
  · exact changes_linkError _ s

theorem changes_completeBroadcast (code : Byte) (p : List Byte) (sum : Byte) (s : State) :
    Changes s (completeBroadcast code p sum s) := by
  unfold completeBroadcast
  split
  · exact (changes_execute code p s).trans (changes_setLinkState _ _)
  · exact changes_linkError _ s

theorem changes_frameByte (bc : Bool) (f : Frame) (b : Byte) (s : State) : Changes s (frameByte bc f b s) := by
  unfold frameByte
  split
  · split
    · exact changes_setLinkState _ s
    · exact changes_linkError _ s
  · split
    · exact changes_setLinkState _ s
    · split
      · exact changes_completeBroadcast ..
      · exact changes_completeUnicast ..

theorem changes_dataEvent (b : Byte) (s : State) : Changes s (dataEvent b s) := by
  unfold dataEvent
  split
  · split
    · exact .refl
    · exact changes_setLinkState _ s
    · exact changes_setLinkState _ s
    · exact changes_frameByte ..
    · exact changes_frameByte ..
    · exact changes_setLinkState _ s
    · exact changes_countLinkError s
  · exact .refl

theorem changes_receiveFrame (code : Byte) (p : List Byte) (s : State) : Changes s (receiveFrame code p s) := by
  unfold receiveFrame
  induction commandFrame code p generalizing s with
  | nil => exact .refl
  | cons b bs ih => exact (changes_dataEvent b s).trans (ih _)

theorem changes_framingErrorEvent (s : State) : Changes s (framingErrorEvent s) := by
  unfold framingErrorEvent
  split
  · split
    · exact .refl
    · exact changes_countLinkError s
    · exact changes_countLinkError s
    · exact changes_linkError _ s
    · exact changes_linkError _ s
    · exact changes_linkError _ s
    · exact changes_countLinkError s
  · exact .refl

theorem changes_frameTimeoutEvent (s : State) : Changes s (frameTimeoutEvent s) := by
  unfold frameTimeoutEvent
  split
  · split
    · exact .refl
    · exact .refl
    · exact .refl
    · exact changes_linkError _ s
    · exact changes_linkError _ s
    · exact changes_setLinkState _ s
    · exact .refl
  · exact .refl

theorem changes_breakEvent (s : State) : Changes s (breakEvent s) := by
  unfold breakEvent
  split
  · exact .bookkeeping {}
  · exact .refl

theorem changes_endOfBreakEvent (s : State) : Changes s (endOfBreakEvent s) := by
  unfold endOfBreakEvent
  split
  · exact .bookkeeping {}
  · exact .refl

theorem changes_nextCharacter (r : Response) (s : State) : Changes s (nextCharacter r s) := by
  unfold nextCharacter
  dsimp only
  split
  · exact .bookkeeping {}
  · exact .bookkeeping {}

theorem changes_turnaroundEvent (s : State) : Changes s (turnaroundEvent s) := by
  unfold turnaroundEvent
  repeat' split
  all_goals exact .bookkeeping {}

theorem changes_responseEndEvent (s : State) : Changes s (responseEndEvent s) := by
  unfold responseEndEvent
  repeat' split
  all_goals exact .bookkeeping {}

theorem changes_linkTimers (s : State) : Changes s (linkTimers s) := by
  unfold linkTimers
  dsimp only
  split
  case h_7 r _ =>
    split
    · split
      · exact .bookkeeping {}
      · exact changes_nextCharacter r s
    · split
      · exact .bookkeeping {}
      · exact .bookkeeping {}
  all_goals exact .bookkeeping {}

theorem changes_handleLine (e : Option LineEvent) (s : State) : Changes s (handleLine e s) := by
  unfold handleLine
  split
  · exact .refl
  · exact changes_selectEvent _ s
  · exact changes_dataEvent _ s
  · exact changes_framingErrorEvent s

theorem changes_received (r : Receiver) (low : Nat) (e : Option LineEvent) (s : State) :
    Changes s (handleLine e (setReceiver r low s)) :=
  (Changes.bookkeeping {}).trans (changes_handleLine e _)

theorem changes_mdiEdge (s : State) : Changes s (mdiEdge s) := by
  have heard : Changes s (if s.link.inBreak && mdiLevel s then endOfBreakEvent s else s) := by
    split
    · exact changes_endOfBreakEvent s
    · exact .refl
  unfold mdiEdge
  dsimp only
  generalize (if s.link.inBreak && mdiLevel s then endOfBreakEvent s else s) = u at heard ⊢
  split
  · exact heard
  · exact heard.trans (changes_received _ _ _ _)

theorem changes_mdiCycle (s : State) : Changes s (mdiCycle s) := by
  have passed : Changes s { s with mdi := s.mdi.drop 1 } := .bookkeeping {}
  unfold mdiCycle
  dsimp only
  generalize (if mdiLevel s then 0 else s.link.lowFor + 1) = low
  split
  · exact passed
  · split
    · exact passed.trans (changes_breakEvent _)
    · exact passed.trans (changes_received _ _ _ _)

theorem changes_linkMoment (s : State) : Changes s (linkMoment s) := by
  have check : ∀ u, Changes u (gapCheck u) := by
    intro u
    unfold gapCheck
    split
    · exact changes_frameTimeoutEvent u
    · exact .refl
  exact (changes_mdiEdge s).trans (check _)

theorem changes_linkCycle (s : State) : Changes s (linkCycle s) :=
  (changes_linkMoment s).trans ((changes_linkTimers _).trans ((changes_mdiCycle _).trans (changes_linkMoment _)))

theorem changes_refclkCycle (s : State) : Changes s (refclkCycle s) := by
  unfold refclkCycle
  split
  · exact (changes_linkCycle s).trans (changes_gridCycle _)
  · exact .refl

/-! ### Power and REFCLK -/

theorem changes_refclkStopEvent (s : State) : Changes s (refclkStopEvent s) := by
  unfold refclkStopEvent
  dsimp only
  repeat' split
  all_goals exact .bookkeeping {}

theorem changes_refclkResumeEvent (s : State) : Changes s (refclkResumeEvent s) := by
  unfold refclkResumeEvent
  dsimp only
  repeat' split
  all_goals exact .bookkeeping {}

theorem changes_powerOnResetEvent (change : ResetChange) (s : State) : Changes s (powerOnResetEvent change s) := by
  unfold powerOnResetEvent
  split
  next src =>
    split
    · cases src <;> exact .bookkeeping {}
    · exact .one (.reset src)
  next src => cases src <;> exact .bookkeeping {}

theorem changes_initialisationEvent (stn : BitVec 5) (rate : BitVec 2) (s : State) :
    Changes s (initialisationEvent stn rate s) := by
  unfold initialisationEvent
  split
  · exact .bookkeeping { matched := fun _ hrun => by simp at hrun }
  · exact .refl

theorem changes_initialisationCompleteEvent (regenHigh : Bool) (s : State) :
    Changes s (initialisationCompleteEvent regenHigh s) := by
  unfold initialisationCompleteEvent
  split
  · refine Relation.ReflTransGen.trans (Changes.bookkeeping ?_) (changes_judgeHead _)
    exact bookkeeping_matchResponse rfl rfl rfl rfl rfl id
  · exact .refl

/-! ### Every command, every step -/

/-- Every command answers a state that a chain of elementary changes leads to. -/
theorem exec_changes (c : Instr) (s : State) : ∃ t, exec c s = .next t ∧ Changes s t := by
  cases c with
  | offer r => exact ⟨_, rfl, changes_offerHead r s⟩
  | takeHeld => exact ⟨_, rfl, changes_takeHeldEvent s⟩
  | takeRefusing => exact ⟨_, rfl, changes_takeRefusingEvent s⟩
  | mPortReadyEvent => exact ⟨_, rfl, changes_mPortReady s⟩
  | memoryResponse r => exact ⟨_, rfl, changes_offerResponse r s⟩
  | hPortReadyEvent => exact ⟨_, rfl, changes_hPortReady s⟩
  | tick => exact ⟨_, rfl, changes_atTick changes_tickEvent s⟩
  | sliceBoundary => exact ⟨_, rfl, changes_atTick changes_sliceBoundaryEvent s⟩
  | periodBoundary => exact ⟨_, rfl, changes_atTick (changes_boundaryWhen atPeriodEnd) s⟩
  | expiry => exact ⟨_, rfl, changes_atTick (changes_boundaryWhen expiryDue) s⟩
  | publication =>
    exact ⟨_, rfl, changes_atTick (changes_boundaryWhen fun t => atPeriodEnd t && t.store.commitPending) s⟩
  | regulationRestart =>
    refine ⟨_, rfl, ?_⟩
    split
    · exact changes_restartEvent s
    · exact .refl
  | regenFall =>
    refine ⟨_, rfl, ?_⟩
    split
    · exact (Changes.bookkeeping {}).trans (changes_settle _)
    · exact .refl
  | powerOnReset change => exact ⟨_, rfl, changes_powerOnResetEvent change s⟩
  | initialisation stn rate => exact ⟨_, rfl, changes_initialisationEvent stn rate s⟩
  | initialisationComplete high => exact ⟨_, rfl, changes_initialisationCompleteEvent high s⟩
  | selectCharacter value => exact ⟨_, rfl, changes_selectEvent value s⟩
  | dataCharacter value => exact ⟨_, rfl, changes_dataEvent value s⟩
  | framingError => exact ⟨_, rfl, changes_framingErrorEvent s⟩
  | frameTimeout => exact ⟨_, rfl, changes_frameTimeoutEvent s⟩
  | linkBreak => exact ⟨_, rfl, changes_breakEvent s⟩
  | responseTurnaround => exact ⟨_, rfl, changes_turnaroundEvent s⟩
  | responseEnd => exact ⟨_, rfl, changes_responseEndEvent s⟩
  | refclkStop => exact ⟨_, rfl, changes_refclkStopEvent s⟩
  | refclkResume => exact ⟨_, rfl, changes_refclkResumeEvent s⟩
  | endOfBreak => exact ⟨_, rfl, changes_endOfBreakEvent s⟩
  | unknownCommand | identify | statusKeep | statusClear | readAccount | writeAccount | readMap | writeMap
  | readGlobals | writeGlobals | copyLiveToStaged | commit | cancelCommit | readCountersKeep | readCountersClear
  | readHold | flushRelease | flushRefuse | readCapture | clearCapture | setMode | ackAlert | setAlertEnable =>
    exact ⟨_, rfl, changes_receiveFrame _ _ s⟩

/-- Every step is a chain of elementary changes. -/
theorem step_changes (h : step s = .next t) : Changes s t := by
  unfold step at h
  split at h
  · obtain rfl := Host.Outcome.next.inj h
    exact changes_refclkCycle s
  next c rest _ =>
    obtain ⟨u, hu, hc⟩ := exec_changes c { s with pending := rest }
    obtain rfl := Host.Outcome.next.inj (hu.symm.trans h)
    exact (Changes.bookkeeping {}).trans hc

/-- What every elementary change keeps, every step keeps. -/
theorem step_keeps {P : State → Prop} (hP : ∀ {s t}, Change s t → P s → P t) (h : step s = .next t) (hs : P s) : P t :=
  (step_changes h).keeps hP hs

end Sys2Proof.Machine
end

