-- ==== Sys2Proof/Proofs/Balances.lean ====
section
/-! SUPPORT. Every elementary change keeps every balance within the live ceiling (R5). -/

namespace Sys2Proof.Machine

open Sys2Proof.Safety

variable {s t : State}

/-- Where no balance grows and the live configuration stays, the balances stay within their ceilings. -/
theorem balancesBounded_of_le (h : BalancesBounded s) (hl : t.store.live = s.store.live)
    (hb : ∀ a, (accountOf t a).balance ≤ (accountOf s a).balance) : BalancesBounded t := by
  intro a
  have hp : liveParams t a = liveParams s a := by unfold liveParams; rw [hl]
  rw [hp]
  exact (hb a).trans (h a)

theorem balancesBounded_reset : BalancesBounded State.reset := by
  intro a; rw [accountOf_reset, liveParams_reset]; exact Nat.le_refl _

theorem Change.balances (c : Change s t) (h : BalancesBounded s) : BalancesBounded t := by
  cases c with
  | bookkeeping b => exact balancesBounded_of_le h b.live fun a => by rw [accountOf_congr b.accounts]
  | reset src => exact balancesBounded_reset
  | hold q a b i _ _ =>
    refine balancesBounded_of_le h (by simp) fun x => ?_
    rw [accountOf_takeHeld]
    split <;> exact Nat.le_refl _
  | refuse q c a i _ _ =>
    refine balancesBounded_of_le h (by simp) fun x => ?_
    rw [accountOf_takeRefusing]
    split <;> simp
  | issueHead q a _ _ =>
    refine balancesBounded_of_le h (by simp) fun x => ?_
    rw [accountOf_issueRequest]
    split
    next hx => rw [← hx]; exact chargeAccount_balance_le ..
    next => exact Nat.le_refl _
  | issueHeld i r _ _ =>
    refine balancesBounded_of_le h rfl fun x => ?_
    rw [accountOf_heldIssued]
    split
    · exact chargeAccount_balance_le ..
    · exact Nat.le_refl _
  | takeResponse r =>
    refine balancesBounded_of_le h (by simp) fun x => ?_
    rw [accountOf_responseTaken]
    split <;> exact Nat.le_refl _
  | freeRefusing | release | dropCaptures => exact h
  | judge o => exact balancesBounded_of_le h (by simp) fun x => (reevaluatePool_balance s o x).1.le
  | boundary => intro a; rw [accountOf_beforeExpiry]; exact Nat.min_le_right _ _
  | restart => intro a; rw [accountOf_restartFilled]
  | clearCounters a =>
    refine balancesBounded_of_le h (by simp) fun x => ?_
    exact (updateAccount_keeps s Account.balance (f := Machine.clearCounters) (fun _ => rfl) a x).le

/-- Settles O52: no charge exceeds a balance, and every grant, clip and fill ends at the live ceiling or below it. -/
theorem balancesStayWithinCeilings : Obligations.BalancesStayWithinCeilings :=
  fun _ _ hs hstep => step_keeps Change.balances hstep hs

end Sys2Proof.Machine
end

