-- ==== Sys2Proof/Proofs/HeldCounts.lean ====
section
/-! SUPPORT. Every elementary change keeps the slots distinct and the held counts true (R74, R14). -/

namespace Sys2Proof.Machine

open Sys2Proof.Safety

variable {s t : State}

theorem slotsDistinct_of_map {f : PoolEntry → PoolEntry} (hf : ∀ e, (f e).slot = e.slot) (h : SlotsDistinct s)
    (hp : t.pool = s.pool.map f) : SlotsDistinct t := by
  unfold SlotsDistinct
  rw [hp, List.map_map]
  simpa [Function.comp_def, hf] using h

theorem slotsDistinct_of_filter {p : PoolEntry → Bool} (h : SlotsDistinct s) (hp : t.pool = s.pool.filter p) :
    SlotsDistinct t := by
  unfold SlotsDistinct
  rw [hp]
  exact h.sublist (List.filter_sublist.map _)

theorem Change.slots (c : Change s t) (h : SlotsDistinct s) : SlotsDistinct t := by
  cases c with
  | bookkeeping b => unfold SlotsDistinct; rw [b.pool]; exact h
  | reset src => exact List.nodup_nil
  | hold q a b i free _ => unfold SlotsDistinct; rw [takeHeld_pool]; exact slots_nodup_take h free _
  | refuse q c a i free _ => unfold SlotsDistinct; rw [takeRefusing_pool]; exact slots_nodup_take h free _
  | issueHead | clearCounters | dropCaptures => exact h
  | issueHeld i r _ _ => exact slotsDistinct_of_filter h rfl
  | takeResponse r => unfold SlotsDistinct; rw [responseTaken_pool]; exact h
  | freeRefusing i r _ => exact slotsDistinct_of_filter h (removeSlot_pool s i)
  | judge o => unfold SlotsDistinct; rw [reevaluatePool_pool, judgePool_slots]; exact h
  | release x => exact slotsDistinct_of_map (releaseEntry_slot x) h rfl
  | boundary => exact slotsDistinct_of_map ageEntry_slot h (beforeExpiry_pool s)
  | restart => unfold SlotsDistinct; rw [restartFilled_pool]; exact h

/-- Where an update leaves the held count of every account and the pool as they were, the counts stay true. -/
theorem heldCountsAgree_of_eq (h : HeldCountsAgree s) (hb : ∀ a, (accountOf t a).held = (accountOf s a).held)
    (hp : ∀ a, heldCount t.pool a = heldCount s.pool a) : HeldCountsAgree t := by
  rw [heldCountsAgree_iff] at *
  intro a
  rw [hb, hp, h]

theorem heldCountsAgree_reset : HeldCountsAgree State.reset := by
  intro a; rw [accountOf_reset]; rfl

theorem Change.heldCounts (c : Change s t) (hd : SlotsDistinct s) (h : HeldCountsAgree s) : HeldCountsAgree t := by
  cases c with
  | bookkeeping b => exact heldCountsAgree_of_eq h (fun a => by rw [accountOf_congr b.accounts]) fun a => by rw [b.pool]
  | reset src => exact heldCountsAgree_reset
  | hold q a b i _ _ =>
    rw [heldCountsAgree_iff] at *
    intro x
    rw [accountOf_takeHeld, takeHeld_pool, heldCount_append, heldCount_cons_held, ← h x]
    split <;> rfl
  | refuse q c a i _ _ =>
    refine heldCountsAgree_of_eq h (fun x => ?_) fun x => by rw [takeRefusing_pool, heldCount_append]; rfl
    rw [accountOf_takeRefusing]
    split <;> simp
  | issueHead q a _ _ =>
    refine heldCountsAgree_of_eq h (fun x => ?_) fun x => rfl
    rw [accountOf_issueRequest]
    split
    next hx => rw [← hx]; exact chargeAccount_held ..
    next => rfl
  | issueHeld i r _ mem =>
    obtain ⟨front, back, hp, hf⟩ := pool_split hd mem
    rw [heldCountsAgree_iff] at *
    intro x
    have hx := h x
    have hpool : (heldIssued i r s).pool = front ++ back := hf
    rw [hp, heldCount_append, heldCount_cons_held] at hx
    rw [accountOf_heldIssued, hpool, heldCount_append]
    by_cases ha : r.account = x
    · rw [if_pos ha] at hx ⊢
      change (chargeAccount _ _ (accountOf s x)).held - 1 = _
      rw [chargeAccount_held]; omega
    · rw [if_neg ha] at hx ⊢; omega
  | takeResponse r =>
    refine heldCountsAgree_of_eq h (fun x => ?_) fun x => by rw [responseTaken_pool]
    rw [accountOf_responseTaken]
    split <;> rfl
  | freeRefusing i r mem =>
    obtain ⟨front, back, hp, hf⟩ := pool_split hd mem
    refine heldCountsAgree_of_eq h (fun x => rfl) fun x => ?_
    rw [removeSlot_pool, hf, hp, heldCount_append, heldCount_append, heldCount_cons_refusing]
  | judge o =>
    rw [heldCountsAgree_iff] at *
    intro x
    have hc := judgePool_heldCount s o [] s.pool x
    rw [reevaluatePool_pool]
    unfold reevaluatePool
    rw [foldl_recordRefusal_held]
    change (accountOf s x).held - _ = _
    rw [h x]; omega
  | release x => exact heldCountsAgree_of_eq h (fun a => rfl) fun a => heldCount_map_releaseEntry x s.pool a
  | boundary =>
    exact heldCountsAgree_of_eq h (fun a => by rw [accountOf_beforeExpiry]) fun a => by
      rw [beforeExpiry_pool, heldCount_map_ageEntry]
  | restart => exact heldCountsAgree_of_eq h (fun a => by rw [accountOf_restartFilled]) fun a => by rw [restartFilled_pool]
  | clearCounters a =>
    refine heldCountsAgree_of_eq h (fun x => ?_) fun x => rfl
    exact updateAccount_keeps s Account.held (f := Machine.clearCounters) (fun _ => rfl) a x
  | dropCaptures => exact h

/-- Settles O53: a slot is taken only while it is FREE, and each event moves a held count by the records it places in HELD,
issues or refuses. -/
theorem heldCountsStayTrue : Obligations.HeldCountsStayTrue :=
  fun _ _ hs hstep =>
    step_keeps (P := fun u => SlotsDistinct u ∧ HeldCountsAgree u)
      (fun c h => ⟨c.slots h.1, c.heldCounts h.1 h.2⟩) hstep hs

end Sys2Proof.Machine
end

