-- ==== Sys2Proof/Proofs/OutstandingTable.lean ====
section
/-! SUPPORT. Every elementary change keeps the pairs distinct, the outstanding counts true, the Outstanding Table within its 16
entries, and a waiting response matched (R56, R13, R105, R106, R107). -/

namespace Sys2Proof.Machine

open Sys2Proof.Safety

variable {s t : State}

/-! ### Pairs -/

theorem pairsDistinct_of_perm {x : RequesterId × Tag} (h : PairsDistinct s) (hx : x ∉ heldPairs s)
    (hp : (heldPairs t).Perm (x :: heldPairs s)) : PairsDistinct t :=
  hp.nodup_iff.mpr (List.nodup_cons.mpr ⟨hx, h⟩)

theorem pairsDistinct_of_sublist (h : PairsDistinct s) (hp : t.pool.Sublist s.pool)
    (ho : t.outstanding.Sublist s.outstanding) : PairsDistinct t :=
  List.Nodup.sublist ((hp.map _).append (ho.map _)) h

theorem pairsDistinct_of_eq (h : PairsDistinct s)
    (hp : (t.pool.map fun e => recordPair e.record) = s.pool.map fun e => recordPair e.record)
    (ho : t.outstanding = s.outstanding) : PairsDistinct t := by
  unfold PairsDistinct heldPairs
  rw [hp, ho]
  exact h

/-- A head that is not in tag conflict brings a pair that no record carries (R56). -/
theorem pair_not_mem_of_fresh {q : Request} (h : tagConflict s q = false) : (q.id, q.tag) ∉ heldPairs s := by
  intro hm
  rw [(tagConflict_iff q).mpr hm] at h
  simp at h

/-- A record placed behind the pool adds its pair. -/
theorem heldPairs_place {e : PoolEntry} (hp : t.pool = s.pool ++ [e]) (ho : t.outstanding = s.outstanding) :
    (heldPairs t).Perm (recordPair e.record :: heldPairs s) := by
  unfold heldPairs
  rw [hp, ho, List.map_append, List.append_assoc]
  exact List.perm_middle

/-- An entry added to the table adds its pair. -/
theorem heldPairs_enter {e : OutstandingEntry} (hp : t.pool = s.pool) (ho : t.outstanding = s.outstanding ++ [e]) :
    (heldPairs t).Perm ((e.id, e.tag) :: heldPairs s) := by
  unfold heldPairs
  rw [hp, ho, List.map_append, ← List.append_assoc]
  exact List.perm_append_singleton _ _

/-- The pairs before and after the issue of a HELD record are the same (R96, R103). -/
theorem heldPairs_heldIssued {i : SlotIndex} {h : HeldRecord} (hd : SlotsDistinct s) (mem : ⟨i, .held h⟩ ∈ s.pool) :
    (heldPairs (heldIssued i h s)).Perm (heldPairs s) := by
  obtain ⟨front, back, hp, hf⟩ := pool_split hd mem
  have hrest : heldPairs s =
      (front.map fun e => recordPair e.record) ++ (h.req.id, h.req.tag) ::
        ((back.map fun e => recordPair e.record) ++ s.outstanding.map fun e => (e.id, e.tag)) := by
    unfold heldPairs
    rw [hp, List.map_append, List.map_cons, List.append_assoc]
    rfl
  have hissued : heldPairs (heldIssued i h s) =
      (front.map fun e => recordPair e.record) ++ ((back.map fun e => recordPair e.record) ++
        s.outstanding.map fun e => (e.id, e.tag)) ++ [(h.req.id, h.req.tag)] := by
    have hpool : (heldIssued i h s).pool = front ++ back := hf
    have hout : (heldIssued i h s).outstanding =
        s.outstanding ++ [{ id := h.req.id, tag := h.req.tag, account := h.account }] := rfl
    unfold heldPairs
    rw [hpool, hout]
    simp
  rw [hrest, hissued]
  exact (List.perm_append_singleton _ _).trans List.perm_middle.symm

theorem Change.pairs (c : Change s t) (hd : SlotsDistinct s) (h : PairsDistinct s) : PairsDistinct t := by
  cases c with
  | bookkeeping b => exact pairsDistinct_of_eq h (by rw [b.pool]) b.outstanding
  | reset src => exact List.nodup_nil
  | hold q a b i _ fresh =>
    exact pairsDistinct_of_perm h (pair_not_mem_of_fresh fresh) (heldPairs_place (takeHeld_pool ..) (by simp))
  | refuse q c a i _ fresh =>
    exact pairsDistinct_of_perm h (pair_not_mem_of_fresh fresh) (heldPairs_place (takeRefusing_pool ..) (by simp))
  | issueHead q a _ fresh =>
    exact pairsDistinct_of_perm h (pair_not_mem_of_fresh fresh)
      (heldPairs_enter (by simp) (issueRequest_outstanding ..))
  | issueHeld i r _ mem => exact (heldPairs_heldIssued hd mem).nodup_iff.mpr h
  | takeResponse r => exact pairsDistinct_of_sublist h (by simp) (by simp)
  | freeRefusing i r _ => exact pairsDistinct_of_sublist h (by simp) (by simp)
  | judge o => exact pairsDistinct_of_eq h (by rw [reevaluatePool_pool, judgePool_pairs]) (by simp)
  | release x =>
    refine pairsDistinct_of_eq h ?_ (by simp)
    change List.map _ (s.pool.map (releaseEntry x)) = _
    simp [releaseEntry_pair]
  | boundary => exact pairsDistinct_of_eq h (by simp [ageEntry_pair]) (by simp)
  | restart => exact pairsDistinct_of_eq h (by simp) (by simp)
  | clearCounters | dropCaptures => exact h

/-! ### Outstanding counts -/

/-- The number of an account's entries in a table (R13, R106). -/
def entryCount (es : List OutstandingEntry) (a : AccountIndex) : Nat := (es.filter fun e => e.account == a).length

theorem outstandingCountsAgree_iff :
    OutstandingCountsAgree s ↔ ∀ a, (accountOf s a).outstanding = entryCount s.outstanding a := Iff.rfl

@[simp] theorem entryCount_append (es fs : List OutstandingEntry) (a : AccountIndex) :
    entryCount (es ++ fs) a = entryCount es a + entryCount fs a := by simp [entryCount]

@[simp] theorem entryCount_cons (e : OutstandingEntry) (es : List OutstandingEntry) (a : AccountIndex) :
    entryCount (e :: es) a = (if e.account = a then 1 else 0) + entryCount es a := by
  unfold entryCount
  by_cases ha : e.account = a
  · simp [ha, Nat.add_comm]
  · simp [ha]

@[simp] theorem entryCount_nil (a : AccountIndex) : entryCount [] a = 0 := rfl

/-- Where no pair comes twice, the removal of a pair removes the one entry that the search finds, or none (R56, R112). -/
theorem entryCount_remove {es : List OutstandingEntry} (hn : (es.map fun e => (e.id, e.tag)).Nodup)
    (id : RequesterId) (tag : Tag) (a : AccountIndex) :
    entryCount (es.filter fun e => !(e.id == id && e.tag == tag)) a +
        (if (es.find? fun e => e.id == id && e.tag == tag).map (·.account) = some a then 1 else 0) =
      entryCount es a := by
  induction es with
  | nil => rfl
  | cons e rest ih =>
    rw [List.map_cons, List.nodup_cons] at hn
    obtain ⟨hout, hrest⟩ := hn
    cases he : (e.id == id && e.tag == tag)
    · have := ih hrest
      rw [List.filter_cons_of_pos (by simp [he]), List.find?_cons_of_neg (by simp [he]), entryCount_cons,
        entryCount_cons]
      omega
    · obtain ⟨rfl, rfl⟩ : e.id = id ∧ e.tag = tag := by simpa using he
      have hkeep : (rest.filter fun x => !(x.id == e.id && x.tag == e.tag)) = rest := by
        rw [List.filter_eq_self]
        intro x hx
        by_contra hc
        have heq : x.id = e.id ∧ x.tag = e.tag := by simpa using hc
        exact hout (List.mem_map.mpr ⟨x, hx, by rw [heq.1, heq.2]⟩)
      rw [List.filter_cons_of_neg (by simp), List.find?_cons_of_pos (by simp), hkeep, entryCount_cons]
      simp only [Option.map_some, Option.some.injEq]
      omega

theorem outstandingCountsAgree_of_eq (h : OutstandingCountsAgree s)
    (hb : ∀ a, (accountOf t a).outstanding = (accountOf s a).outstanding) (ho : t.outstanding = s.outstanding) :
    OutstandingCountsAgree t := by
  intro a
  rw [hb, ho, h]

theorem outstandingCountsAgree_reset : OutstandingCountsAgree State.reset := by
  intro a; rw [accountOf_reset]; rfl

theorem Change.outstandingCounts (c : Change s t) (hp : PairsDistinct s) (h : OutstandingCountsAgree s) :
    OutstandingCountsAgree t := by
  cases c with
  | bookkeeping b =>
    exact outstandingCountsAgree_of_eq h (fun a => by rw [accountOf_congr b.accounts]) b.outstanding
  | reset src => exact outstandingCountsAgree_reset
  | hold q a b i _ _ =>
    refine outstandingCountsAgree_of_eq h (fun x => ?_) (by simp)
    rw [accountOf_takeHeld]
    split <;> rfl
  | refuse q c a i _ _ =>
    refine outstandingCountsAgree_of_eq h (fun x => ?_) (by simp)
    rw [accountOf_takeRefusing]
    split <;> simp
  | issueHead q a _ _ =>
    rw [outstandingCountsAgree_iff] at *
    intro x
    have hx := h x
    rw [accountOf_issueRequest, issueRequest_outstanding, entryCount_append, entryCount_cons, ← hx]
    split
    next ha => subst ha; simp [countIssue]
    next => simp
  | issueHeld i r _ _ =>
    rw [outstandingCountsAgree_iff] at *
    intro x
    have hx := h x
    change _ = entryCount (s.outstanding ++ [{ id := r.req.id, tag := r.req.tag, account := r.account }]) x
    rw [accountOf_heldIssued, entryCount_append, entryCount_cons, ← hx]
    split
    · simp [countUnhold, countIssue]
    · simp
  | takeResponse r =>
    have hn : (s.outstanding.map fun e => (e.id, e.tag)).Nodup := (List.nodup_append.mp hp).2.1
    rw [outstandingCountsAgree_iff] at *
    intro x
    have hx := h x
    have hc := entryCount_remove hn r.id r.tag x
    rw [accountOf_responseTaken, responseTaken_outstanding]
    unfold entryAccount
    split
    next hf => rw [if_pos hf] at hc; simp only [countDelivery]; omega
    next hf => rw [if_neg hf] at hc; omega
  | freeRefusing | release | dropCaptures => exact h
  | judge o => exact outstandingCountsAgree_of_eq h (fun a => (reevaluatePool_balance s o a).2) (by simp)
  | boundary => exact outstandingCountsAgree_of_eq h (fun a => by rw [accountOf_beforeExpiry]) (by simp)
  | restart => exact outstandingCountsAgree_of_eq h (fun a => by rw [accountOf_restartFilled]) (by simp)
  | clearCounters a =>
    exact outstandingCountsAgree_of_eq h
      (updateAccount_keeps s Account.outstanding (f := Machine.clearCounters) (fun _ => rfl) a) rfl

/-! ### The size of the table, and the response that waits -/

theorem Change.outstandingBounded (c : Change s t) (h : OutstandingBounded s) : OutstandingBounded t := by
  cases c with
  | bookkeeping b => unfold OutstandingBounded; rw [b.outstanding]; exact h
  | reset src => exact Nat.zero_le _
  | issueHead q a room _ =>
    unfold OutstandingBounded
    rw [issueRequest_outstanding, List.length_append]
    exact room
  | issueHeld i r room _ =>
    change (s.outstanding ++ [_]).length ≤ _
    rw [List.length_append]
    exact room
  | takeResponse r =>
    unfold OutstandingBounded
    rw [responseTaken_outstanding]
    exact (List.length_filter_le _ _).trans h
  | hold | refuse | judge | boundary | restart => unfold OutstandingBounded; simpa using h
  | freeRefusing | release | clearCounters | dropCaptures => exact h

theorem waitingResponseMatched_of_mem (h : WaitingResponseMatched s) (hp : t.power = s.power)
    (hr : t.memPort.resp = s.memPort.resp) (ho : ∀ e ∈ s.outstanding, e ∈ t.outstanding) :
    WaitingResponseMatched t := by
  intro hrun r hresp
  have hm := h (hp ▸ hrun) r (hr ▸ hresp)
  unfold matchesOutstanding at *
  rw [List.any_eq_true] at *
  obtain ⟨e, he, hpair⟩ := hm
  exact ⟨e, ho e he, hpair⟩

theorem Change.waitingMatched (c : Change s t) (h : WaitingResponseMatched s) : WaitingResponseMatched t := by
  cases c with
  | bookkeeping b => exact b.matched h
  | reset src => exact fun _ r hr => by simp [powerOnState, State.reset] at hr
  | takeResponse r => exact fun _ r hr => by simp at hr
  | issueHead q a _ _ => exact waitingResponseMatched_of_mem h rfl rfl fun e he => List.mem_append_left _ he
  | issueHeld i r _ _ => exact waitingResponseMatched_of_mem h rfl rfl fun e he => List.mem_append_left _ he
  | hold | refuse | judge | boundary | restart =>
    exact waitingResponseMatched_of_mem h (by simp) (by simp) (by simp)
  | freeRefusing | release | clearCounters | dropCaptures => exact h

/-- Settles O54: a pair enters pool or table only from a head that is not in tag conflict, moves from the one to the other at an
issue, and leaves with its entry. -/
theorem outstandingTableStaysTrue : Obligations.OutstandingTableStaysTrue :=
  fun _ _ hs hstep =>
    step_keeps
      (P := fun u => SlotsDistinct u ∧ PairsDistinct u ∧ OutstandingCountsAgree u ∧ OutstandingBounded u ∧
        WaitingResponseMatched u)
      (fun c ⟨hd, hp, hc, hb, hw⟩ =>
        ⟨c.slots hd, c.pairs hd hp, c.outstandingCounts hp hc, c.outstandingBounded hb, c.waitingMatched hw⟩)
      hstep hs

end Sys2Proof.Machine
end

