-- ==== Sys2Proof/Proofs/Counters.lean ====
section
/-! SUPPORT. Every elementary change keeps the Capture Ring, the global counters and the counters of the accounts in range (R143,
R145, R72, R116, R167, R15). -/

namespace Sys2Proof.Machine

open Sys2Proof.Safety

variable {s t : State}

theorem ringSound_reset : RingSound State.reset.capture :=
  ⟨Nat.zero_le _, Nat.zero_le _, by decide, fun i r hr => by simp [State.reset] at hr⟩

theorem globalCountersInRange_reset : GlobalCountersInRange State.reset :=
  ⟨Nat.zero_le _, Nat.zero_le _, Nat.zero_le _, Nat.zero_le _⟩

theorem accountCountersInRange_reset : AccountCountersInRange State.reset := by
  rw [accountCountersInRange_iff]
  intro a; rw [accountOf_reset]; exact .zero

theorem Change.ringSound (c : Change s t) (h : RingSound s.capture) : RingSound t.capture := by
  cases c with
  | bookkeeping b => rw [b.capture]; exact h
  | reset src => exact ringSound_reset
  | refuse q c a i _ _ => rw [takeRefusing_capture]; exact h.add rfl
  | judge o => exact ringSound_foldl_recordRefusal _ { s with pool := (judgePool s o [] s.pool).1 } h
  | dropCaptures n k hk => exact h.drop n hk
  | hold | takeResponse | boundary | restart => simpa using h
  | issueHead | issueHeld | freeRefusing | release | clearCounters => exact h

theorem Change.globalCounters (c : Change s t) (h : GlobalCountersInRange s) : GlobalCountersInRange t := by
  cases c with
  | bookkeeping b => exact b.counters h
  | reset src => exact globalCountersInRange_reset
  | hold | refuse | takeResponse | judge | boundary | restart => unfold GlobalCountersInRange; simpa using h
  | issueHead | issueHeld | freeRefusing | release | clearCounters | dropCaptures => exact h

theorem Change.accountCounters (c : Change s t) (hd : SlotsDistinct s) (hh : HeldCountsAgree s)
    (h : AccountCountersInRange s) : AccountCountersInRange t := by
  rw [accountCountersInRange_iff] at *
  intro x
  have hx := h x
  cases c with
  | bookkeeping b => rw [accountOf_congr b.accounts]; exact hx
  | reset src => exact accountCountersInRange_reset x
  | hold q a b i free _ =>
    have hroom := heldCount_lt_of_freeSlot hd free x
    rw [← heldCountsAgree_iff.mp hh x] at hroom
    rw [accountOf_takeHeld]
    split
    · exact hx.countHold hroom
    · exact hx
  | refuse q c a i _ _ =>
    rw [accountOf_takeRefusing]
    split
    · exact hx.countRefusal c
    · exact hx
  | issueHead q a _ _ =>
    rw [accountOf_issueRequest]
    split
    · exact ((h a).chargeAccount _ _).countIssue _
    · exact hx
  | issueHeld i r _ _ =>
    rw [accountOf_heldIssued]
    split
    · exact (hx.chargeAccount _ _).countIssue _
    · exact hx
  | takeResponse r =>
    rw [accountOf_responseTaken]
    split <;> exact hx
  | judge o => exact foldl_recordRefusal_counters _ { s with pool := (judgePool s o [] s.pool).1 } x hx
  | boundary => rw [accountOf_beforeExpiry]; exact hx.raisePeakWait (greatestWait_aged_le _ _)
  | restart => rw [accountOf_restartFilled]; exact hx
  | clearCounters a =>
    rw [accountOf_updateAccount]
    split
    · exact .zero
    · exact hx
  | freeRefusing | release | dropCaptures => exact hx

/-- Settles O58: every counter saturates, the ring numbers its records one after the other, and peak held counts records in
distinct slots. -/
theorem ringAndCountersStayInRange : Obligations.RingAndCountersStayInRange := by
  intro s t hd hh ⟨hr, hc, hg, ha⟩ hstep
  obtain ⟨-, -, hring, hglobal, haccount⟩ := step_keeps
    (P := fun u => SlotsDistinct u ∧ HeldCountsAgree u ∧ RingSound u.capture ∧ GlobalCountersInRange u ∧
      AccountCountersInRange u)
    (fun c ⟨hd, hh, hr, hg, ha⟩ =>
      ⟨c.slots hd, c.heldCounts hd hh, c.ringSound hr, c.globalCounters hg, c.accountCounters hd hh ha⟩)
    hstep ⟨hd, hh, (ringSound_iff s).mpr ⟨hr, hc⟩, hg, ha⟩
  obtain ⟨hrange, hconsecutive⟩ := (ringSound_iff t).mp hring
  exact ⟨hrange, hconsecutive, hglobal, haccount⟩

end Sys2Proof.Machine
end

