-- ==== Sys2Proof/Proofs/Boundary.lean ====
section
/-! SUPPORT. The slice boundary as a grant to every account (R9, R42), and the laws of the state after reset. -/

namespace Sys2Proof.Machine

open Sys2Proof.Safety

variable {s : State}

/-- While ticks count, SLICE_BOUNDARY is the slice boundary (R36, R47). -/
theorem exec_sliceBoundary (h : TicksCount s) : exec .sliceBoundary s = .next (sliceBoundaryEvent s) := by
  change Host.Outcome.next (atTick sliceBoundaryEvent s) = _
  unfold atTick
  rw [clockRuns_of_clockRunning h.1, h.2]
  rfl

/-- What a slice boundary leaves as it is. -/
theorem sliceBoundaryEvent_frame (s : State) : sliceBoundaryEvent s =
    { s with
      time := (sliceBoundaryEvent s).time, store := (sliceBoundaryEvent s).store
      accounts := (sliceBoundaryEvent s).accounts, pool := (sliceBoundaryEvent s).pool
      capture := (sliceBoundaryEvent s).capture, alert := (sliceBoundaryEvent s).alert
      hostPort := { (sliceBoundaryEvent s).hostPort with sent := s.hostPort.sent } } := by
  have hsent : (sliceBoundaryEvent s).hostPort.sent = s.hostPort.sent := by
    unfold sliceBoundaryEvent; rw [judgeHead_sent]; simp
  apply State.eq_of_fields
  case h3 => exact HostPort.eq_with_sent hsent
  all_goals (unfold sliceBoundaryEvent; simp)

/-- Settles O9: ageing, expiry and the taking of the head leave the granted balances as the grant made them. -/
theorem sliceBoundaryGrantsEveryAccount : Obligations.SliceBoundaryGrantsEveryAccount := by
  intro s hticks
  have hlive : ∀ a, liveParams (sliceBoundaryEvent s) a = liveParams (beforeExpiry s) a :=
    liveParams_congr (sliceBoundaryEvent_store s)
  refine ⟨_, exec_sliceBoundary hticks, ?_, ?_, ?_, ?_, ?_, fun a => ?_, fun a => ?_, sliceBoundaryEvent_frame s⟩
  · rw [sliceBoundaryEvent_time]; rfl
  · rw [sliceBoundaryEvent_time]; rfl
  · rw [sliceBoundaryEvent_time]; rfl
  · rw [sliceBoundaryEvent_time]; rfl
  · simp only [sliceBoundaryEvent_store, beforeExpiry_store, atPeriodEnd_iff]
  · rw [(sliceBoundaryEvent_balance s a).1, accountOf_beforeExpiry, hlive, sliceBoundaryEvent_time]
    rfl
  · rw [(sliceBoundaryEvent_balance s a).2, accountOf_beforeExpiry]

theorem powerOn_accounts (a : AccountIndex) : Configuration.powerOn.accounts[a] = AccountParams.powerOn := by
  simp [Configuration.powerOn]

theorem powerOn_map (i : Fin 24) : Configuration.powerOn.map[i] = MapEntry.powerOn := by
  simp [Configuration.powerOn]

/-- The default configuration passes validation (R123, R130). -/
theorem firstFault_powerOn : firstFault Configuration.powerOn = none := by
  have ha : ((List.finRange 16).find? fun i => accountFaulty Configuration.powerOn.accounts[i]) = none :=
    List.find?_eq_none.mpr fun i _ => by rw [powerOn_accounts]; decide
  have hm : ((List.finRange 24).find? fun i => mapFaulty Configuration.powerOn.map[i]) = none :=
    List.find?_eq_none.mpr fun i _ => by rw [powerOn_map]; decide
  simp only [firstFault, ha, hm]

/-- The default configuration lies in its ranges (R19, R48). -/
theorem configurationInRange_powerOn : ConfigurationInRange Configuration.powerOn := by
  refine ⟨fun a => ?_, by decide, by decide, by decide⟩
  rw [powerOn_accounts]
  decide

/-- Settles O4: pool, table and ring are empty, and every account and both configurations have their power-on values. -/
theorem resetLeavesPowerOnValuesAndLaws : Obligations.ResetLeavesPowerOnValuesAndLaws := by
  obtain ⟨hring, hconsecutive⟩ := (ringSound_iff State.reset).mp ringSound_reset
  exact
    ⟨rfl, rfl, rfl, rfl, rfl, rfl, rfl, accountOf_reset, powerOn_accounts, powerOn_map, rfl, rfl, rfl, rfl, rfl, rfl, rfl,
      rfl, rfl, rfl, rfl, rfl, rfl, rfl,
      balancesBounded_reset, List.nodup_nil, heldCountsAgree_reset, List.nodup_nil, outstandingCountsAgree_reset,
      Nat.zero_le _, fun _ r hr => by simp [State.reset] at hr, fun _ => ⟨rfl, rfl⟩, rfl, fun _ => rfl,
      ⟨firstFault_powerOn, fun _ => firstFault_powerOn⟩, ⟨configurationInRange_powerOn, configurationInRange_powerOn⟩,
      by decide, hring, hconsecutive, globalCountersInRange_reset, accountCountersInRange_reset, rfl, rfl, fun _ => rfl,
      rfl⟩

end Sys2Proof.Machine
end

/-! SUPPORT. The Classifier: what each of an entry's tests says in bits and numbers (R22 to R24), and the account found for a
lowest-index matching entry and for no matching entry (R25, R26). -/

namespace Sys2Proof.Machine

/-! ### The tests of an entry -/

/-- Two words agree under a mask exactly when they agree in every bit the mask holds. -/
theorem and_eq_and_iff_getLsbD {w : Nat} (x y mask : BitVec w) :
    x &&& mask = y &&& mask ↔ ∀ k : Fin w, mask.getLsbD k = true → x.getLsbD k = y.getLsbD k := by
  constructor
  · intro h k hk
    have hbit : (x &&& mask).getLsbD k = (y &&& mask).getLsbD k := by rw [h]
    simpa only [BitVec.getLsbD_and, hk, Bool.and_true] using hbit
  · intro h
    apply BitVec.eq_of_getLsbD_eq
    intro i hi
    rw [BitVec.getLsbD_and, BitVec.getLsbD_and]
    cases hmask : mask.getLsbD i
    case false => rw [Bool.and_false, Bool.and_false]
    case true => rw [h ⟨i, hi⟩ hmask]

/-- The ID test compares the bits of the ID mask (R22). -/
theorem idTest_iff (e : MapEntry) (r : Request) :
    idTest e r = true ↔ ∀ k : Fin 6, e.idMask.getLsbD k = true → r.id.getLsbD k = e.idValue.getLsbD k := by
  rw [← and_eq_and_iff_getLsbD]
  exact beq_iff_eq

/-- The page test on page numbers, both bounds inclusive (R23). -/
theorem pageTest_iff (e : MapEntry) (r : Request) :
    pageTest e r = true ↔ e.basePage.toNat ≤ r.addr.toNat / 4096 ∧ r.addr.toNat / 4096 ≤ e.limitPage.toNat := by
  simp only [pageTest, Bool.and_eq_true, decide_eq_true_eq, BitVec.le_def, pageOf_toNat]

/-- The direction test, filter by filter (R24). -/
theorem directionTest_iff (e : MapEntry) (r : Request) :
    directionTest e r = true ↔
      e.filter = .both ∨ (e.filter = .read ∧ r.dir = .read) ∨ (e.filter = .write ∧ r.dir = .write) := by
  unfold directionTest
  cases e.filter with
  | both => simp
  | read => simp
  | write => simp

/-- An entry matches when it is valid and its three tests pass (R25). -/
theorem entryMatches_iff (e : MapEntry) (r : Request) :
    entryMatches e r = true ↔
      e.valid = true ∧ idTest e r = true ∧ pageTest e r = true ∧ directionTest e r = true := by
  simp only [entryMatches, Bool.and_eq_true, and_assoc]

/-! ### The account found -/

/-- The lowest-index matching entry names the account (R25). -/
theorem classify_of_lowest {c : Configuration} {r : Request} {i : Fin 24} (hmatch : entryMatches c.map[i] r = true)
    (hlower : ∀ j : Fin 24, j < i → entryMatches c.map[j] r = false) : classify c r = some c.map[i].account := by
  have hfound : (c.map.toList.find? fun e => entryMatches e r) = some c.map[i] := by
    rw [List.find?_eq_some_iff_getElem]
    refine ⟨hmatch, i, by simp, by simp, fun j hj => ?_⟩
    have hbelow := hlower ⟨j, hj.trans i.isLt⟩ hj
    simpa using hbelow
  rw [classify, hfound]

/-- The account the unmapped action gives (R26); none is a refusal. -/
def unmappedAccount : UnmappedAction → Option AccountIndex
  | .account n => some n
  | .refuse => none

/-- Where no entry matches, the unmapped action decides (R26). -/
theorem classify_of_noMatch {c : Configuration} {r : Request} (hnone : ∀ i : Fin 24, entryMatches c.map[i] r = false) :
    classify c r = unmappedAccount c.unmapped := by
  have hfound : (c.map.toList.find? fun e => entryMatches e r) = none := by
    rw [List.find?_eq_none]
    intro e he
    obtain ⟨i, hi, rfl⟩ := Vector.mem_iff_getElem.mp (Vector.mem_toList_iff.mp he)
    exact Bool.eq_false_iff.mp (hnone ⟨i, hi⟩)
  rw [classify, hfound]
  cases c.unmapped with
  | account n => rfl
  | refuse => rfl

/-- Settles O18: the match test by test, then the search by its first matching index or by its failure. -/
theorem classificationTakesLowestMatchingEntry : Obligations.ClassificationTakesLowestMatchingEntry := by
  intro c r
  refine ⟨fun e => ?_, fun i hmatch hlower => classify_of_lowest hmatch hlower, fun hnone => ⟨fun n hn => ?_, fun hr => ?_⟩⟩
  · rw [entryMatches_iff, idTest_iff, pageTest_iff, directionTest_iff]
  · rw [classify_of_noMatch hnone, hn, unmappedAccount]
  · rw [classify_of_noMatch hnone, hr, unmappedAccount]

end Sys2Proof.Machine

/-! SUPPORT. What every step keeps of the configuration, the Time Base and the sources of a reset (R34, R120, R123, R124, R138):
the changes that take no time, the ticks and boundaries, the restart, and the events of power and REFCLK. -/

namespace Sys2Proof.Machine

open Sys2Proof.Safety

-- One declaration at a time: elaborated side by side, the text outgrows the memory of the check.
set_option Elab.async false

variable {s t u : State}

/-! ### Changes that take no time -/

/-- A change that leaves the power, the Time Base and the live configuration as they are, and a sound store sound. -/
structure Timeless (s t : State) : Prop where
  power : t.power = s.power := by rfl
  time : t.time = s.time := by rfl
  live : t.store.live = s.store.live := by rfl
  store : StoreSound s ∧ StoreInRange s → StoreSound t ∧ StoreInRange t := by exact id

theorem Timeless.refl (s : State) : Timeless s s := {}

theorem Timeless.trans (h : Timeless s t) (h' : Timeless t u) : Timeless s u where
  power := h'.power.trans h.power
  time := h'.time.trans h.time
  live := h'.live.trans h.live
  store := h'.store ∘ h.store

/-- A change outside power, Time Base and Configuration Store. -/
theorem Timeless.of_store_eq (hp : t.power = s.power) (ht : t.time = s.time) (hs : t.store = s.store) : Timeless s t where
  power := hp
  time := ht
  live := by rw [hs]
  store := by unfold StoreSound StoreInRange; rw [hs]; exact id

/-! ### Head, pool and ports -/

theorem timeless_judgeHead (s : State) : Timeless s (judgeHead s) := .of_store_eq (by simp) (by simp) (by simp)

theorem timeless_settle (s : State) : Timeless s (settle s) := .of_store_eq (by simp) (by simp) (by simp)

theorem timeless_matchResponse (s : State) : Timeless s (matchResponse s) := by
  unfold matchResponse
  repeat' split
  all_goals exact {}

theorem timeless_offerHead (r : Request) (s : State) : Timeless s (offerHead r s) := by
  unfold offerHead
  split
  · exact .refl s
  · dsimp only
    split
    · exact Timeless.trans {} (timeless_judgeHead _)
    · exact {}

theorem timeless_takeHeldEvent (s : State) : Timeless s (takeHeldEvent s) := by
  unfold takeHeldEvent
  repeat' split
  all_goals exact {}

theorem timeless_takeRefusingEvent (s : State) : Timeless s (takeRefusingEvent s) := by
  unfold takeRefusingEvent
  repeat' split
  all_goals exact .of_store_eq (by simp) (by simp) (by simp)

theorem timeless_issueCandidate (c : Candidate) (s : State) : Timeless s (issueCandidate c s) := by
  cases c with
  | held i h => exact Timeless.trans {} (timeless_settle _)
  | head q a => exact Timeless.trans {} (timeless_settle _)

theorem timeless_mPortReady (s : State) : Timeless s (mPortReady s) := by
  unfold mPortReady
  split
  · split
    · exact timeless_issueCandidate _ s
    · exact .refl s
  · exact .refl s

theorem timeless_offerResponse (r : MemoryResponse) (s : State) : Timeless s (offerResponse r s) := by
  unfold offerResponse
  split
  · exact .refl s
  · dsimp only
    split
    · exact Timeless.trans {} (timeless_matchResponse _)
    · exact {}

theorem timeless_deliverMemoryResponse (r : MemoryResponse) (s : State) : Timeless s (deliverMemoryResponse r s) := by
  unfold deliverMemoryResponse
  dsimp only
  split
  · exact Timeless.trans {} (timeless_settle _)
  · exact Timeless.trans {} (timeless_settle _)

theorem timeless_deliverRefusal (i : SlotIndex) (r : RefusingRecord) (s : State) : Timeless s (deliverRefusal i r s) :=
  Timeless.trans {} (timeless_judgeHead _)

theorem timeless_hPortReady (s : State) : Timeless s (hPortReady s) := by
  unfold hPortReady
  split
  · split
    · exact .refl s
    · exact timeless_deliverMemoryResponse _ s
    · exact timeless_deliverRefusal _ _ s
    · split
      · exact timeless_deliverMemoryResponse _ s
      · exact timeless_deliverRefusal _ _ s
  · exact .refl s

/-! ### The Command Executor -/

/-- A store whose staged copy is replaced while no commit is pending stays sound (R123, R124). -/
theorem timeless_setStaged {c : Configuration} (hc : s.store.commitPending = false)
    (hr : StoreInRange s → ConfigurationInRange c) : Timeless s (setStaged c s) where
  store := fun ⟨⟨hlive, _⟩, hrange⟩ =>
    ⟨⟨hlive, fun h => absurd (hc.symm.trans h) (by decide)⟩, hr hrange, hrange.2⟩

/-- Parameters that pass the range check lie in their ranges (R120). -/
theorem paramsInRange_decode {p : List Byte} {i : Nat} (h : accountParamsInRange p i = true) :
    ParamsInRange (decodeAccountParams p i) := by
  simp only [accountParamsInRange, Bool.and_eq_true, Bool.or_eq_true, decide_eq_true_eq] at h
  obtain ⟨⟨⟨⟨⟨⟨⟨-, hq⟩, he⟩, hc⟩, hw⟩, hcap⟩, ht⟩, hp⟩ := h
  exact ⟨hq, he, hc, hw, hcap, ht, hp⟩

theorem timeless_performWriteAccount {a : AccountIndex} {p : AccountParams} (hc : s.store.commitPending = false)
    (hp : ParamsInRange p) : Timeless s (performWriteAccount a p s).1 := by
  refine timeless_setStaged hc fun ⟨⟨hacc, hglobals⟩, _⟩ => ⟨fun b => ?_, hglobals⟩
  change ParamsInRange (s.store.staged.accounts.set a.val p a.isLt)[b.val]
  rw [Vector.getElem_set]
  split
  · exact hp
  · exact hacc b

theorem timeless_performWriteGlobals {prescale length : Nat} {x : UnmappedAction} (hc : s.store.commitPending = false)
    (h1 : prescale ≤ 65535) (h2 : 1 ≤ length) (h3 : length ≤ 4096) :
    Timeless s (performWriteGlobals prescale length x s).1 :=
  timeless_setStaged hc fun ⟨⟨hacc, _⟩, _⟩ => ⟨hacc, h1, h2, h3⟩

/-- COMMIT sets the commit pending only where the staged copy passes validation (R123). -/
theorem timeless_performCommit (s : State) : Timeless s (performCommit s).1 := by
  unfold performCommit
  split
  · exact .refl s
  next h => exact { store := fun ⟨⟨hlive, _⟩, hrange⟩ => ⟨⟨hlive, fun _ => h⟩, hrange⟩ }

/-- A command that has passed the checks of R170 keeps the store sound. -/
theorem timeless_perform {c : Command} {p : List Byte} (hr : payloadInRange c p = true)
    (hc : c.refusedWhilePending = true → s.store.commitPending = false) : Timeless s (perform c p s).1 := by
  cases c with
  | identify | readAccount | readMap | readGlobals | readHold => exact .refl s
  | ackAlert | setAlertEnable | clearCapture => exact {}
  | cancelCommit =>
    exact { store := fun ⟨⟨hlive, _⟩, hrange⟩ => ⟨⟨hlive, fun h => Bool.noConfusion h⟩, hrange⟩ }
  | writeAccount =>
    simp only [payloadInRange, Bool.and_eq_true] at hr
    exact timeless_performWriteAccount (hc rfl) (paramsInRange_decode hr.2)
  | writeMap => exact timeless_setStaged (hc rfl) fun ⟨hstaged, _⟩ => hstaged
  | writeGlobals =>
    simp only [payloadInRange, globalsInRange, Bool.and_eq_true, decide_eq_true_eq] at hr
    obtain ⟨⟨⟨hprescale, hlow⟩, hhigh⟩, -⟩ := hr
    exact timeless_performWriteGlobals (hc rfl) hprescale hlow hhigh
  | copyLiveToStaged => exact timeless_setStaged (hc rfl) fun ⟨_, hlive⟩ => hlive
  | commit => exact timeless_performCommit s
  | status | readCounters | readCapture =>
    simp only [perform, performStatus, performReadCounters, performReadCapture]
    split <;> exact {}
  | flush =>
    unfold perform performFlush
    dsimp only
    split
    · exact Timeless.trans (.of_store_eq (by simp) (by simp) (by simp)) (timeless_judgeHead _)
    · exact Timeless.trans {} (timeless_settle _)
  | setMode => exact Timeless.trans {} (timeless_settle _)

theorem timeless_execute (code : Byte) (p : List Byte) (s : State) : Timeless s (execute code p s).1 := by
  unfold execute
  split
  · exact .refl s
  next c _ =>
    split
    · exact .refl s
    · split
      · exact .refl s
      next hrange =>
        split
        · exact .refl s
        next hpending =>
          exact timeless_perform (by simpa using hrange) fun hc => by simpa [hc] using hpending

/-! ### The link -/

theorem timeless_setLinkState (st : LinkState) (s : State) : Timeless s (setLinkState st s) := {}

theorem timeless_selectEvent (value : Byte) (s : State) : Timeless s (selectEvent value s) := by
  unfold selectEvent
  split <;> exact {}

theorem timeless_completeUnicast (code : Byte) (p : List Byte) (sum : Byte) (s : State) :
    Timeless s (completeUnicast code p sum s) := by
  unfold completeUnicast
  split
  · exact (timeless_execute code p s).trans (timeless_setLinkState _ _)
  · exact {}

theorem timeless_completeBroadcast (code : Byte) (p : List Byte) (sum : Byte) (s : State) :
    Timeless s (completeBroadcast code p sum s) := by
  unfold completeBroadcast
  split
  · exact (timeless_execute code p s).trans (timeless_setLinkState _ _)
  · exact {}

theorem timeless_frameByte (bc : Bool) (f : Frame) (b : Byte) (s : State) : Timeless s (frameByte bc f b s) := by
  unfold frameByte
  split
  · split <;> exact {}
  · split
    · exact {}
    · split
      · exact timeless_completeBroadcast ..
      · exact timeless_completeUnicast ..

theorem timeless_dataEvent (b : Byte) (s : State) : Timeless s (dataEvent b s) := by
  unfold dataEvent
  split
  · split
    case h_4 => exact timeless_frameByte ..
    case h_5 => exact timeless_frameByte ..
    all_goals exact {}
  · exact .refl s

theorem timeless_receiveFrame (code : Byte) (p : List Byte) (s : State) : Timeless s (receiveFrame code p s) := by
  unfold receiveFrame
  induction commandFrame code p generalizing s with
  | nil => exact .refl s
  | cons b bs ih => exact (timeless_dataEvent b s).trans (ih _)

theorem timeless_framingErrorEvent (s : State) : Timeless s (framingErrorEvent s) := by
  unfold framingErrorEvent
  repeat' split
  all_goals exact {}

theorem timeless_frameTimeoutEvent (s : State) : Timeless s (frameTimeoutEvent s) := by
  unfold frameTimeoutEvent
  repeat' split
  all_goals exact {}

theorem timeless_breakEvent (s : State) : Timeless s (breakEvent s) := by
  unfold breakEvent
  split <;> exact {}

theorem timeless_endOfBreakEvent (s : State) : Timeless s (endOfBreakEvent s) := by
  unfold endOfBreakEvent
  split <;> exact {}

theorem timeless_turnaroundEvent (s : State) : Timeless s (turnaroundEvent s) := by
  unfold turnaroundEvent
  repeat' split
  all_goals exact {}

theorem timeless_responseEndEvent (s : State) : Timeless s (responseEndEvent s) := by
  unfold responseEndEvent
  repeat' split
  all_goals exact {}

theorem timeless_linkTimers (s : State) : Timeless s (linkTimers s) := by
  unfold linkTimers nextCharacter
  dsimp only
  repeat' split
  all_goals exact {}

/-- What the receiver hands over, after a change of the receiver and the levels to come on MDI (R156). -/
theorem timeless_handleLine (e : Option LineEvent) (s : State) : Timeless s (handleLine e s) := by
  unfold handleLine
  split
  · exact .refl s
  · exact timeless_selectEvent _ s
  · exact timeless_dataEvent _ s
  · exact timeless_framingErrorEvent s

theorem timeless_mdiEdge (s : State) : Timeless s (mdiEdge s) := by
  have heard : Timeless s (if s.link.inBreak && mdiLevel s then endOfBreakEvent s else s) := by
    split
    · exact timeless_endOfBreakEvent s
    · exact .refl s
  unfold mdiEdge
  dsimp only
  generalize (if s.link.inBreak && mdiLevel s then endOfBreakEvent s else s) = u at heard ⊢
  split
  · exact heard
  · exact heard.trans (Timeless.trans {} (timeless_handleLine _ _))

theorem timeless_mdiCycle (s : State) : Timeless s (mdiCycle s) := by
  unfold mdiCycle
  dsimp only
  generalize (if mdiLevel s then 0 else s.link.lowFor + 1) = low
  split
  · exact {}
  · split
    · exact Timeless.trans {} (timeless_breakEvent _)
    · exact Timeless.trans {} (timeless_handleLine _ _)

theorem timeless_linkMoment (s : State) : Timeless s (linkMoment s) := by
  unfold linkMoment gapCheck
  split
  · exact (timeless_mdiEdge s).trans (timeless_frameTimeoutEvent _)
  · exact timeless_mdiEdge s

theorem timeless_linkCycle (s : State) : Timeless s (linkCycle s) :=
  (timeless_linkMoment s).trans
    ((timeless_linkTimers _).trans ((timeless_mdiCycle _).trans (timeless_linkMoment _)))

/-! ### A steady state -/

/-- The configuration, the counts and the sources of a reset are sound, and no tick is to be discarded. -/
structure Steady (s : State) : Prop where
  store : StoreSound s ∧ StoreInRange s
  grid : GridInRange s
  sources : ResetSourcesAgree s
  counted : s.time.dropsTick = false

/-- The laws of configuration, counts and reset sources together, a tick to discard among them. -/
abbrev ControlSound (s : State) : Prop :=
  StoreSound s ∧ StoreInRange s ∧ GridInRange s ∧ ResetSourcesAgree s ∧ discardSound s = true

theorem Steady.controlSound (h : Steady s) : ControlSound s :=
  ⟨h.store.1, h.store.2, h.grid, h.sources, by unfold discardSound; rw [h.counted]; rfl⟩

theorem steady_of_controlSound (h : ControlSound s) (hd : s.time.dropsTick = false) : Steady s :=
  have ⟨hsound, hrange, hgrid, hsources, _⟩ := h
  ⟨⟨hsound, hrange⟩, hgrid, hsources, hd⟩

theorem resetSourcesAgree_of_power_eq (h : t.power = s.power) (hs : ResetSourcesAgree s) : ResetSourcesAgree t := by
  unfold ResetSourcesAgree resetInForce
  rw [h]
  exact hs

/-- Cleared counts lie in their ranges, for a slice has at least one tick (R34, R38). -/
theorem gridInRange_of_cleared {drops : Bool} (hr : StoreInRange s)
    (ht : s.time = { cycle := 0, tick := 0, slice := 0, period := 0, dropsTick := drops }) : GridInRange s := by
  obtain ⟨-, -, -, hlength, -⟩ := hr
  unfold GridInRange
  rw [ht]
  exact ⟨Nat.zero_le _, hlength, Nat.zero_lt_succ _, Nat.zero_lt_succ _⟩

theorem Timeless.steady (h : Timeless s t) (hs : Steady s) : Steady t where
  store := h.store hs.store
  grid := by unfold GridInRange; rw [h.time, h.live]; exact hs.grid
  sources := resetSourcesAgree_of_power_eq h.power hs.sources
  counted := by rw [h.time]; exact hs.counted

/-- A tick to discard is over with the next command (R47). -/
theorem steady_pastRestart (h : ControlSound s) : Steady (pastRestart s) :=
  have ⟨hsound, hrange, hgrid, hsources, _⟩ := h
  ⟨⟨hsound, hrange⟩, hgrid, hsources, rfl⟩

/-! ### Publication, ticks and boundaries -/

/-- A publication takes a staged copy that has passed validation (R123, R126). -/
theorem storeSound_of_publication (hs : StoreSound s ∧ StoreInRange s)
    (h : t.store = s.store ∨ s.store.commitPending = true ∧
      t.store = { staged := s.store.staged, live := s.store.staged, commitPending := false }) :
    StoreSound t ∧ StoreInRange t := by
  obtain ⟨⟨hlive, hpending⟩, hranges⟩ := hs
  unfold StoreSound StoreInRange
  rcases h with h | ⟨hp, h⟩
  · rw [h]; exact ⟨⟨hlive, hpending⟩, hranges⟩
  · rw [h]; exact ⟨⟨hpending hp, fun _ => hpending hp⟩, hranges.1, hranges.1⟩

theorem steady_sliceBoundaryEvent (hs : Steady s) : Steady (sliceBoundaryEvent s) := by
  have hstore : StoreSound (sliceBoundaryEvent s) ∧ StoreInRange (sliceBoundaryEvent s) := by
    refine storeSound_of_publication hs.store ?_
    rw [sliceBoundaryEvent_store, beforeExpiry_store]
    split
    next h => exact .inr ⟨h.2, rfl⟩
    next => exact .inl rfl
  obtain ⟨-, -, -, hperiod⟩ := hs.grid
  obtain ⟨-, -, hlength, -⟩ := hstore.2.2
  have hpower : (sliceBoundaryEvent s).power = s.power := by unfold sliceBoundaryEvent; simp
  refine ⟨hstore, ?_, resetSourcesAgree_of_power_eq hpower hs.sources, by rw [sliceBoundaryEvent_time]; rfl⟩
  rw [GridInRange, sliceBoundaryEvent_time]
  refine ⟨Nat.zero_le _, hlength, Nat.mod_lt _ (by decide), ?_⟩
  unfold advanceSlice
  dsimp only
  split
  · exact Nat.mod_lt _ (by decide)
  · exact hperiod

theorem steady_tickEvent (hs : Steady s) : Steady (tickEvent s) := by
  obtain ⟨-, -, hslice, hperiod⟩ := hs.grid
  unfold tickEvent
  split
  next h => exact ⟨hs.store, ⟨Nat.zero_le _, h, hslice, hperiod⟩, hs.sources, hs.counted⟩
  next => exact steady_sliceBoundaryEvent hs

theorem steady_gridCycle (hs : Steady s) : Steady (gridCycle s) := by
  obtain ⟨-, htick, hslice, hperiod⟩ := hs.grid
  unfold gridCycle
  split
  next h => exact ⟨hs.store, ⟨Nat.lt_succ_iff.mp h, htick, hslice, hperiod⟩, hs.sources, rfl⟩
  next => exact steady_tickEvent (steady_pastRestart hs.controlSound)

theorem steady_refclkCycle (hs : Steady s) : Steady (refclkCycle s) := by
  unfold refclkCycle
  split
  · exact steady_gridCycle ((timeless_linkCycle s).steady hs)
  · exact hs

/-- The row of a tick or of a boundary is, taken as a tick, a tick, a slice boundary or nothing (log 1). -/
theorem exec_of_mem_tickRows {i : Instr} (hi : i ∈ tickRows) :
    ∃ bring : State → State, (∀ s, exec i s = .next (atTick bring s)) ∧
      ∀ s, bring s = tickEvent s ∨ bring s = sliceBoundaryEvent s ∨ bring s = s := by
  have boundary : ∀ (due : State → Bool) (s : State), (if due s then sliceBoundaryEvent s else s) = tickEvent s ∨
      (if due s then sliceBoundaryEvent s else s) = sliceBoundaryEvent s ∨
      (if due s then sliceBoundaryEvent s else s) = s := by
    intro due s
    cases due s
    · exact .inr (.inr rfl)
    · exact .inr (.inl rfl)
  simp only [tickRows, List.mem_cons, List.not_mem_nil, or_false] at hi
  rcases hi with rfl | rfl | rfl | rfl | rfl
  · exact ⟨_, fun _ => rfl, fun _ => .inl rfl⟩
  · exact ⟨_, fun _ => rfl, fun _ => .inr (.inl rfl)⟩
  · exact ⟨_, fun _ => rfl, boundary atPeriodEnd⟩
  · exact ⟨_, fun _ => rfl, boundary expiryDue⟩
  · exact ⟨_, fun _ => rfl, boundary fun t => atPeriodEnd t && t.store.commitPending⟩

/-- A tick that falls together with a restart is discarded, whichever row it is taken as (R47). -/
theorem exec_tickRow_dropped {i : Instr} (hi : i ∈ tickRows) (hclock : clockRuns s = true) (hd : s.time.dropsTick = true) :
    exec i s = .next (pastRestart s) := by
  obtain ⟨bring, hexec, -⟩ := exec_of_mem_tickRows hi
  rw [hexec]
  unfold atTick
  rw [hclock, hd]
  rfl

theorem steady_atTick {bring : State → State}
    (hb : ∀ s, bring s = tickEvent s ∨ bring s = sliceBoundaryEvent s ∨ bring s = s) (hs : Steady s) :
    Steady (atTick bring s) := by
  unfold atTick
  rw [hs.counted]
  split
  · rcases hb s with h | h | h
    · simpa [h] using steady_tickEvent hs
    · simpa [h] using steady_sliceBoundaryEvent hs
    · simpa [h] using hs
  · exact hs

/-! ### Restart, power and REFCLK -/

/-- What falls together with a restart is the row of a tick, with REFCLK running (R47, log 6). -/
theorem tickFallsTogether_iff (s : State) :
    tickFallsTogether s = true ↔ ∃ i, s.pending.head? = some i ∧ FallsTogether s i := by
  unfold tickFallsTogether
  cases hp : s.pending.head? with
  | none => simp
  | some i =>
    simp only [Option.some.injEq, exists_eq_left', FallsTogether, tickRows]
    by_cases hi : i = .tick
    · simp [hi]
    · simp [hi, and_assoc]

/-- A restart leaves at most a tick to discard that waits next (R47, R137). -/
theorem restartEvent_sound (hopen : portsOpen s = true) (hs : Steady s) :
    ControlSound (restartEvent s) := by
  have hpower : (restartEvent s).power = s.power := by simp [restartEvent_eq]
  have htime : (restartEvent s).time =
      { cycle := 0, tick := 0, slice := 0, period := 0, dropsTick := tickFallsTogether s } := by simp [restartEvent_eq]
  have hpending : (restartEvent s).pending = s.pending := by simp [restartEvent_eq]
  have hstore : StoreSound (restartEvent s) ∧ StoreInRange (restartEvent s) := by
    refine storeSound_of_publication hs.store ?_
    rw [restartEvent_eq, settle_store, restartFilled_store]
    split
    next h => exact .inr ⟨h, rfl⟩
    next => exact .inl rfl
  refine ⟨hstore.1, hstore.2, gridInRange_of_cleared hstore.2 htime, resetSourcesAgree_of_power_eq hpower hs.sources, ?_⟩
  unfold discardSound clockRuns
  rw [htime, hpower, hpending]
  cases hfalls : tickFallsTogether s with
  | false => rfl
  | true =>
    obtain ⟨i, hi, hrefclk, -, hrow⟩ := (tickFallsTogether_iff s).mp hfalls
    have hmem : i ∈ tickRows := hrow.elim (fun h => h ▸ List.mem_cons_self) And.left
    have hany : (tickRows.any fun j => s.pending.head? == some j) = true := List.any_eq_true.mpr ⟨i, hmem, by simp [hi]⟩
    have hrun : portsOpen (restartEvent s) = true := by unfold portsOpen at hopen ⊢; rw [hpower]; exact hopen
    simp [hany, hrefclk, hrun]

theorem steady_refclkStopEvent (hs : Steady s) : Steady (refclkStopEvent s) := by
  have stopped : ∀ L, Steady { s with
      power := { s.power with refclk := false }
      time := { s.time with dropsTick := false }
      link := L } := fun _ => ⟨hs.store, hs.grid, hs.sources, rfl⟩
  unfold refclkStopEvent
  dsimp only
  repeat' split
  case isFalse => exact hs
  all_goals exact stopped _

theorem steady_refclkResumeEvent (hs : Steady s) : Steady (refclkResumeEvent s) := by
  have resumed : ∀ L, Steady { s with power := { s.power with refclk := true }, link := L } :=
    fun _ => ⟨hs.store, hs.grid, hs.sources, hs.counted⟩
  unfold refclkResumeEvent
  dsimp only
  repeat' split
  case isTrue => exact hs
  all_goals exact resumed _

/-- Every power-on value is sound, and the source that asserts the reset finds it begun (R138). -/
theorem steady_powerOnState (src : ResetSource) (s : State) : Steady (powerOnState src s) where
  store :=
    ⟨⟨firstFault_powerOn, fun _ => firstFault_powerOn⟩, configurationInRange_powerOn, configurationInRange_powerOn⟩
  grid := gridInRange_of_cleared (drops := false) ⟨configurationInRange_powerOn, configurationInRange_powerOn⟩ rfl
  sources := fun _ => by cases src <;> rfl
  counted := rfl

theorem steady_powerOnResetEvent (change : ResetChange) (hs : Steady s) : Steady (powerOnResetEvent change s) := by
  cases change with
  | asserts src =>
    unfold powerOnResetEvent
    dsimp only
    split
    next hforce =>
      have hphase := hs.sources hforce
      exact ⟨hs.store, hs.grid, fun _ => by cases src <;> exact hphase, hs.counted⟩
    next => exact steady_powerOnState src s
  | releases src =>
    refine ⟨hs.store, hs.grid, fun h => ?_, hs.counted⟩
    have hphase : s.power.phase = .inReset := hs.sources (by
      unfold resetInForce at h ⊢
      cases src <;> simp_all [powerOnResetEvent, releaseSource])
    cases src <;> exact hphase

theorem steady_initialisationEvent (stn : BitVec 5) (rate : BitVec 2) (hs : Steady s) :
    Steady (initialisationEvent stn rate s) := by
  unfold initialisationEvent
  split
  next h =>
    have hforce : resetInForce s = false := by simpa using (Bool.and_eq_true_iff.mp h).2
    exact ⟨hs.store, hs.grid, fun h' => absurd (hforce.symm.trans h') (by decide), hs.counted⟩
  next => exact hs

theorem steady_initialisationCompleteEvent (high : Bool) (hs : Steady s) :
    Steady (initialisationCompleteEvent high s) := by
  unfold initialisationCompleteEvent
  split
  next h =>
    refine ((timeless_matchResponse _).trans (timeless_judgeHead _)).steady ?_
    have hphase : s.power.phase = .initialising := by simpa using (Bool.and_eq_true_iff.mp h).1
    refine ⟨hs.store, gridInRange_of_cleared (drops := false) hs.store.2 rfl, fun h' => ?_, rfl⟩
    exact absurd (hphase.symm.trans (hs.sources h')) (by decide)
  next => exact hs

/-! ### Every command, every step -/

/-- Every command but the restart leads from a steady state to a steady state. -/
theorem exec_steady {c : Instr} (hc : c ≠ .regulationRestart) (hs : Steady s) : ∃ t, exec c s = .next t ∧ Steady t := by
  by_cases hrow : c ∈ tickRows
  · obtain ⟨bring, hexec, hb⟩ := exec_of_mem_tickRows hrow
    exact ⟨_, hexec s, steady_atTick hb hs⟩
  have timeless : ∀ {t}, exec c s = .next t → Timeless s t → ∃ t, exec c s = .next t ∧ Steady t :=
    fun he h => ⟨_, he, h.steady hs⟩
  cases c with
  | tick | sliceBoundary | periodBoundary | expiry | publication => exact absurd (by decide) hrow
  | regulationRestart => exact absurd rfl hc
  | offer r => exact timeless rfl (timeless_offerHead r s)
  | takeHeld => exact timeless rfl (timeless_takeHeldEvent s)
  | takeRefusing => exact timeless rfl (timeless_takeRefusingEvent s)
  | mPortReadyEvent => exact timeless rfl (timeless_mPortReady s)
  | memoryResponse r => exact timeless rfl (timeless_offerResponse r s)
  | hPortReadyEvent => exact timeless rfl (timeless_hPortReady s)
  | regenFall =>
    refine timeless rfl ?_
    split
    · exact Timeless.trans {} (timeless_settle _)
    · exact .refl s
  | powerOnReset change => exact ⟨_, rfl, steady_powerOnResetEvent change hs⟩
  | initialisation stn rate => exact ⟨_, rfl, steady_initialisationEvent stn rate hs⟩
  | initialisationComplete high => exact ⟨_, rfl, steady_initialisationCompleteEvent high hs⟩
  | selectCharacter value => exact timeless rfl (timeless_selectEvent value s)
  | dataCharacter value => exact timeless rfl (timeless_dataEvent value s)
  | framingError => exact timeless rfl (timeless_framingErrorEvent s)
  | frameTimeout => exact timeless rfl (timeless_frameTimeoutEvent s)
  | linkBreak => exact timeless rfl (timeless_breakEvent s)
  | responseTurnaround => exact timeless rfl (timeless_turnaroundEvent s)
  | responseEnd => exact timeless rfl (timeless_responseEndEvent s)
  | refclkStop => exact ⟨_, rfl, steady_refclkStopEvent hs⟩
  | refclkResume => exact ⟨_, rfl, steady_refclkResumeEvent hs⟩
  | endOfBreak => exact timeless rfl (timeless_endOfBreakEvent s)
  | unknownCommand | identify | statusKeep | statusClear | readAccount | writeAccount | readMap | writeMap
  | readGlobals | writeGlobals | copyLiveToStaged | commit | cancelCommit | readCountersKeep | readCountersClear
  | readHold | flushRelease | flushRefuse | readCapture | clearCapture | setMode | ackAlert | setAlertEnable =>
    exact timeless rfl (timeless_receiveFrame _ _ s)

/-- From a steady state every command leads to a sound state (R47, R137). -/
theorem exec_controlSound {c : Instr} (hs : Steady s) (h : exec c s = .next t) : ControlSound t := by
  by_cases hc : c = .regulationRestart
  · subst hc
    obtain rfl : (if portsOpen s && !s.reg.regenHigh then restartEvent s else s) = t := Host.Outcome.next.inj h
    split
    next hopen => exact restartEvent_sound (Bool.and_eq_true_iff.mp hopen).1 hs
    next => exact hs.controlSound
  · obtain ⟨u, hu, hsteady⟩ := exec_steady hc hs
    obtain rfl := Host.Outcome.next.inj (hu.symm.trans h)
    exact hsteady.controlSound

/-- A tick to discard is the row that waits in front, and REFCLK counts (R47, R40). -/
theorem tick_in_front (h : discardSound s = true) (hd : s.time.dropsTick = true) :
    clockRuns s = true ∧ ∃ c ∈ tickRows, s.pending.head? = some c := by
  unfold discardSound at h
  simpa [hd] using h

/-- A step takes the command at the front off the queue and executes it. -/
theorem step_of_front {c : Instr} {rest : List Instr} (h : s.pending = c :: rest) :
    step s = exec c { s with pending := rest } := by
  unfold step
  simp only [h]

/-- Settles O57: a step with a tick to discard discards it, and every other step starts in a steady state. -/
theorem configurationAndGridStaySound : Obligations.ConfigurationAndGridStaySound := by
  intro s t (hs : ControlSound s) hstep
  have ⟨_, _, _, _, hdiscard⟩ := hs
  cases hd : s.time.dropsTick with
  | true =>
    obtain ⟨hclock, c, hrow, hfront⟩ := tick_in_front hdiscard hd
    obtain ⟨rest, hp⟩ := List.head?_eq_some_iff.mp hfront
    have hdrop : step s = .next (pastRestart { s with pending := rest }) :=
      (step_of_front hp).trans (exec_tickRow_dropped hrow hclock hd)
    obtain rfl := Host.Outcome.next.inj (hdrop.symm.trans hstep)
    exact (steady_pastRestart hs).controlSound
  | false =>
    have hsteady := steady_of_controlSound hs hd
    cases hp : s.pending with
    | nil =>
      obtain rfl := Host.Outcome.next.inj ((step_idle hp).symm.trans hstep)
      exact (steady_refclkCycle hsteady).controlSound
    | cons c rest =>
      have hfront : Steady { s with pending := rest } := ⟨hsteady.store, hsteady.grid, hsteady.sources, hd⟩
      exact exec_controlSound hfront ((step_of_front hp).symm.trans hstep)

end Sys2Proof.Machine

/-! SUPPORT. One REFCLK cycle on an empty queue, the ticks, the period boundary, and the stop and the resume of REFCLK (R35 to
R37, R40, R47, R48, R126, R168). -/

namespace Sys2Proof.Machine

open Sys2Proof.Safety

-- One declaration at a time: elaborated side by side, the text outgrows the memory of the check.
set_option Elab.async false

variable {s : State}

/-! ### One REFCLK cycle -/

/-- A level that stays high brings a receiver that waits for a start bit nothing (R156). -/
theorem mdiEdge_idle (hclock : ClockRunning s) (hline : LineIdle s) : mdiEdge s = s := by
  obtain ⟨hmdi, hready, -, hbreak⟩ := hline
  rw [mdiEdge_quiet hclock ⟨hmdi, by rw [hready]; rfl⟩, ← hready, ← hbreak]

/-- Outside a frame the gap timer brings nothing (R164). -/
theorem gapCheck_unselected (h : s.link.state = .unselected) : gapCheck s = s := by
  unfold gapCheck frameTimeoutEvent
  simp [h]

/-- With no response and no character on MDO the timers of the link rest (R165, R166). -/
theorem linkTimers_idle (h : s.link.state = .unselected) (hmdo : s.link.mdo = none) : linkTimers s = s := by
  unfold linkTimers
  simp only [h, hmdo, finishCharacter]
  rw [← hmdo, ← h]

/-- A cycle of a high level brings a receiver that waits for a start bit nothing (R156, R157). -/
theorem mdiCycle_idle (hline : LineIdle s) : mdiCycle s = s := by
  obtain ⟨hmdi, hready, hlow, hbreak⟩ := hline
  rw [mdiCycle_quiet hmdi hready hbreak, ← hlow]

/-- With the link and MDI at rest, a REFCLK cycle brings the link nothing. -/
theorem linkCycle_idle (hclock : ClockRunning s) (hstate : s.link.state = .unselected) (hmdo : s.link.mdo = none)
    (hline : LineIdle s) : linkCycle s = s := by
  have hmoment : linkMoment s = s := by
    unfold linkMoment
    rw [mdiEdge_idle hclock hline, gapCheck_unselected hstate]
  unfold linkCycle
  rw [hmoment, linkTimers_idle hstate hmdo, mdiCycle_idle hline, hmoment]

/-- A REFCLK cycle completes a tick once prescale + 1 cycles are complete, and that tick is counted (R35, R47). -/
theorem gridCycle_of_complete (h : s.store.live.prescale + 1 ≤ s.time.cycle + 1) :
    gridCycle s = tickEvent (pastRestart s) := by
  unfold gridCycle
  rw [if_neg (Nat.not_lt.mpr h)]

/-! ### Ticks -/

/-- A tick, or what a row makes of it, comes about while ticks count (R35, R47). -/
theorem atTick_of_ticksCount (h : TicksCount s) (bring : State → State) : atTick bring s = bring s := by
  unfold atTick
  rw [clockRuns_of_clockRunning h.1, h.2]
  rfl

theorem exec_tick (h : TicksCount s) : exec .tick s = .next (tickEvent s) :=
  congrArg Host.Outcome.next (atTick_of_ticksCount h tickEvent)

/-- PERIOD_BOUNDARY is the next slice boundary where that is the boundary of slice 0 (R37, log 1). -/
theorem exec_periodBoundary (h : TicksCount s) :
    exec .periodBoundary s = .next (if atPeriodEnd s then sliceBoundaryEvent s else s) :=
  congrArg Host.Outcome.next (atTick_of_ticksCount h fun t => if atPeriodEnd t then sliceBoundaryEvent t else t)

/-- PUBLICATION is the next slice boundary where that publishes a pending commit (R126, log 1). -/
theorem exec_publication (h : TicksCount s) :
    exec .publication s =
      .next (if atPeriodEnd s && s.store.commitPending then sliceBoundaryEvent s else s) :=
  congrArg Host.Outcome.next
    (atTick_of_ticksCount h fun t => if atPeriodEnd t && t.store.commitPending then sliceBoundaryEvent t else t)

/-- Settles O2: at rest the link lets the cycle pass, so that the cycle is one of the grid. -/
theorem emptyQueuePassesOneRefclkCycle : Obligations.EmptyQueuePassesOneRefclkCycle := by
  intro s hp
  refine ⟨fun hclock => ?_, fun hclock hstate hmdo hline => ?_⟩
  · rw [step_idle hp, refclkCycle, clockRuns_of_not_clockRunning hclock]
    rfl
  · have hcycle : refclkCycle s = gridCycle s := by
      rw [refclkCycle, clockRuns_of_clockRunning hclock, if_pos rfl, linkCycle_idle hclock hstate hmdo hline]
    rw [step_idle hp, hcycle]
    refine ⟨fun h => ?_, fun h => ?_⟩
    · rw [gridCycle, if_pos h]
    · rw [gridCycle_of_complete h]
      exact (exec_tick (s := pastRestart s) ⟨hclock, rfl⟩).symm

/-- Settles O8: a counted tick is the slice boundary from the L-th on, and a discarded one is no row's event. -/
theorem tickCountsTowardTheSliceBoundary : Obligations.TickCountsTowardTheSliceBoundary := by
  intro s hclock
  refine ⟨fun hd => ?_, fun hd i hi => exec_tickRow_dropped hi (clockRuns_of_clockRunning hclock) hd⟩
  rw [exec_tick ⟨hclock, hd⟩, exec_sliceBoundary ⟨hclock, hd⟩]
  unfold tickEvent
  exact ⟨fun h => by rw [if_pos h], fun h => by rw [if_neg (Nat.not_lt.mpr h)]⟩

/-! ### The period boundary -/

/-- The boundary of slice 0 clears the counts and advances the period number (R37). -/
theorem sliceBoundaryEvent_time_of_periodEnd (h : (s.time.slice + 1) % 32 = 0) :
    (sliceBoundaryEvent s).time = { cycle := 0, tick := 0, slice := 0, period := (s.time.period + 1) % 65536 } := by
  rw [sliceBoundaryEvent_time]
  simp [advanceSlice, Config.slicesPerPeriod, Config.wrap16, h]

/-- A boundary keeps every cause that its publication has set (R150). -/
theorem causesKept_boundary (s : State) : CausesKept (beforeExpiry s) (sliceBoundaryEvent s) :=
  (causesKept_reevaluatePool .boundary _).trans (causesKept_judgeHead _)

/-- COMMIT_DONE is bit 1 of the causes (R186). -/
theorem commitDone_mask : ∀ causes : BitVec 6, causes.getLsbD 1 = true → causes &&& 0x02 = 0x02 := by decide

/-- A boundary that publishes sets COMMIT_DONE (R126). -/
theorem commitDone_of_publication (hend : atPeriodEnd s = true) (hp : s.store.commitPending = true) :
    (sliceBoundaryEvent s).alert.causes &&& 0x02 = 0x02 := by
  refine commitDone_mask _ ((causesKept_boundary s).1 1 ?_)
  simp [beforeExpiry_alert, hend, hp]

/-- The store after a boundary that publishes (R126). -/
theorem sliceBoundaryEvent_store_of_publication (hend : atPeriodEnd s = true) (hp : s.store.commitPending = true) :
    (sliceBoundaryEvent s).store = { staged := s.store.staged, live := s.store.staged, commitPending := false } := by
  rw [sliceBoundaryEvent_store, beforeExpiry_store, if_pos ⟨hend, hp⟩]

/-- A boundary that publishes grants by the parameters it publishes, as the boundary of slice 0 (R45, R42). -/
theorem sliceBoundaryEvent_balance_of_publication (hend : atPeriodEnd s = true) (hp : s.store.commitPending = true)
    (a : AccountIndex) : (accountOf (sliceBoundaryEvent s) a).balance =
      min ((accountOf s a).balance + grantAmount s.store.staged.accounts[a] 0) s.store.staged.accounts[a].ceiling := by
  have hlive : liveParams (beforeExpiry s) a = s.store.staged.accounts[a] := by
    unfold liveParams
    rw [beforeExpiry_store, if_pos ⟨hend, hp⟩]
  have hslice : (advanceSlice s.time).slice = 0 := by simpa [atPeriodEnd] using hend
  rw [(sliceBoundaryEvent_balance s a).1, accountOf_beforeExpiry, hlive, hslice]

/-- Settles O10: where the next slice index is 0, the two rows are SLICE_BOUNDARY; else they answer the state they find. -/
theorem periodBoundaryPublishesThePendingCommit : Obligations.PeriodBoundaryPublishesThePendingCommit := by
  intro s hticks
  rw [exec_periodBoundary hticks, exec_publication hticks]
  refine ⟨fun hslice => ?_, fun hp => ?_, fun hslice => ?_⟩
  · have hend : atPeriodEnd s = true := (atPeriodEnd_iff s).mpr hslice
    refine ⟨sliceBoundaryEvent s, by rw [if_pos hend], exec_sliceBoundary hticks, sliceBoundaryEvent_time_of_periodEnd hslice,
      fun hp => ?_, fun hp => ⟨?_, ?_, commitDone_of_publication hend hp, fun a => ?_⟩⟩
    · simp [sliceBoundaryEvent_store, beforeExpiry_store, hp]
    · rw [hend, hp]; rfl
    · exact sliceBoundaryEvent_store_of_publication hend hp
    · exact sliceBoundaryEvent_balance_of_publication hend hp a
  · rw [hp, Bool.and_false]; rfl
  · have hend : atPeriodEnd s = false := by simpa using mt (atPeriodEnd_iff s).mp hslice
    rw [hend]
    exact ⟨rfl, rfl⟩

/-! ### Stop and resume of REFCLK -/

/-- A stop while no response has begun releases MDO and abandons the character being received (R168). -/
theorem refclkStopEvent_of_not_begun (hr : s.power.refclk = true) (hb : ¬ResponseBegun s) : refclkStopEvent s =
    { s with
      power := { s.power with refclk := false }
      time := { s.time with dropsTick := false }
      link := { s.link with mdo := none, receiver := .waitHigh } } := by
  unfold refclkStopEvent
  rw [if_pos hr]
  split
  next r hst => exact if_neg fun h => hb ⟨r, hst, h⟩
  all_goals rfl

/-- A stop within a response moves past the character cut short (R168). -/
theorem refclkStopEvent_of_begun {r : Response} (hr : s.power.refclk = true) (hst : s.link.state = .responding r)
    (hb : r.begun = true) : refclkStopEvent s =
    { s with
      power := { s.power with refclk := false }
      time := { s.time with dropsTick := false }
      link := { s.link with
        mdo := none, receiver := .waitHigh, state := .responding { r with sent := r.sent + 1 } } } := by
  simp [refclkStopEvent, hr, hst, hb]

theorem refclkStopEvent_of_stopped (hr : s.power.refclk = false) : refclkStopEvent s = s := by
  simp [refclkStopEvent, hr]

theorem refclkResumeEvent_of_not_begun (hr : s.power.refclk = false) (hb : ¬ResponseBegun s) :
    refclkResumeEvent s = { s with power := { s.power with refclk := true } } := by
  unfold refclkResumeEvent
  rw [if_neg (by simp [hr])]
  split
  next r hst => exact if_neg fun h => hb ⟨r, hst, h⟩
  all_goals rfl

/-- A resume begins the character of the response at which it stands (R168). -/
theorem refclkResumeEvent_of_character {r : Response} {b : Byte} (hr : s.power.refclk = false)
    (hst : s.link.state = .responding r) (hb : r.begun = true) (hc : (responseFrame r)[r.sent]? = some b) :
    refclkResumeEvent s =
      { s with
        power := { s.power with refclk := true }
        link := { s.link with mdo := some { byte := b, elapsed := 0 } } } := by
  obtain ⟨hlength, hbyte⟩ := List.getElem?_eq_some_iff.mp hc
  have hsame : { r with begun := true } = r := by rw [← hb]
  simp [refclkResumeEvent, hr, hst, hb, hlength, beginResponse, hsame, beginCharacter, hbyte]

/-- A resume ends a response with no character left (log 12). -/
theorem refclkResumeEvent_of_over {r : Response} (hr : s.power.refclk = false) (hst : s.link.state = .responding r)
    (hb : r.begun = true) (hc : (responseFrame r).length ≤ r.sent) :
    refclkResumeEvent s =
      { s with
        power := { s.power with refclk := true }
        link := { s.link with state := .selected, gapTimer := 0, mdo := none } } := by
  simp [refclkResumeEvent, hr, hst, hb, Nat.not_lt.mpr hc, endResponse]

theorem refclkResumeEvent_of_running (hr : s.power.refclk = true) : refclkResumeEvent s = s := by
  simp [refclkResumeEvent, hr]

/-- Settles O16: the cases are those of the clock, and of a response that has begun and its next character. -/
theorem refclkStopAndResume : Obligations.RefclkStopAndResume := fun _ =>
  ⟨fun hr hb => congrArg _ (refclkStopEvent_of_not_begun hr hb),
    fun _ hr hst hb => congrArg _ (refclkStopEvent_of_begun hr hst hb),
    fun hr => congrArg _ (refclkStopEvent_of_stopped hr),
    fun hr hb => congrArg _ (refclkResumeEvent_of_not_begun hr hb),
    fun _ _ hr hst hb hc => congrArg _ (refclkResumeEvent_of_character hr hst hb hc),
    fun _ hr hst hb hc => congrArg _ (refclkResumeEvent_of_over hr hst hb hc),
    fun hr => congrArg _ (refclkResumeEvent_of_running hr)⟩

end Sys2Proof.Machine

/-! SUPPORT. What every step makes of the offered head: the link events do nothing but link work and the commands they carry out,
and every event that changes an input of the head's disposition ends in its judgment (R53, R57, R67 to R69). -/

namespace Sys2Proof.Machine

open Sys2Proof.Safety

-- One declaration at a time: elaborated side by side, the text outgrows the memory of the check.
set_option Elab.async false

variable {s t : State}

/-! ### The inputs of the disposition -/

/-- Two states that agree in everything the disposition of a head reads (R53, R55, R56, R58). -/
structure SameAdmission (s t : State) : Prop where
  reg : t.reg = s.reg := by rfl
  live : t.store.live = s.store.live := by rfl
  pool : t.pool = s.pool := by rfl
  outstanding : t.outstanding = s.outstanding := by rfl
  balance : ∀ a, (accountOf t a).balance = (accountOf s a).balance := by exact fun _ => rfl
  issued : ∀ a, (accountOf t a).outstanding = (accountOf s a).outstanding := by exact fun _ => rfl

theorem SameAdmission.tagConflict (h : SameAdmission s t) (r : Request) : tagConflict t r = tagConflict s r := by
  unfold Machine.tagConflict matchesOutstanding
  rw [h.pool, h.outstanding]

theorem SameAdmission.freeSlot (h : SameAdmission s t) : freeSlot t = freeSlot s := by
  unfold Machine.freeSlot
  rw [h.pool]

theorem SameAdmission.liveParams (h : SameAdmission s t) (a : AccountIndex) : liveParams t a = liveParams s a := by
  unfold Machine.liveParams
  rw [h.live]

theorem SameAdmission.admissionTest (h : SameAdmission s t) (a : AccountIndex) (exempt : Bool) (r : Request)
    (older : List HeldRecord) : admissionTest t a exempt r older = admissionTest s a exempt r older := by
  unfold Machine.admissionTest capApplies creditApplies restrained
  simp only [h.liveParams, h.balance, h.issued, regulationActive_congr h.reg]

theorem SameAdmission.disposition (h : SameAdmission s t) (r : Request) : disposition t r = disposition s r := by
  unfold Machine.disposition dispositionOf
  simp only [h.tagConflict, h.live, h.pool, h.admissionTest, h.liveParams]

/-! ### A head that has been judged -/

/-- The head has been judged in a state with the same head and the same inputs of its disposition. -/
theorem SameAdmission.headJudged (h : SameAdmission s t) (hh : t.hostPort.head = s.hostPort.head) :
    headJudged t = headJudged s := by
  unfold Safety.headJudged
  simp only [hh, h.tagConflict, h.disposition, h.freeSlot]

theorem headJudged_of_no_head (h : s.hostPort.head = none) : headJudged s = true := by
  unfold headJudged
  rw [h]

theorem headJudged_of_tagConflict {h : Head} (hh : s.hostPort.head = some h) (hc : tagConflict s h.req = true)
    (hcounted : h.tagWaitCounted = true) : headJudged s = true := by
  unfold headJudged
  simp [hh, hc, hcounted]

theorem headJudged_of_full {h : Head} (hh : s.hostPort.head = some h) (hc : tagConflict s h.req = false)
    (hfree : freeSlot s = none) (hcounted : h.slotWaitCounted = true) : headJudged s = true := by
  unfold headJudged
  simp only [hh, hc, hfree, hcounted]
  split
  · contradiction
  · split <;> rfl

/-- A tag wait that is entered has been counted (R57). -/
theorem headJudged_enterTagWait {h : Head} (hh : s.hostPort.head = some h) (hc : tagConflict s h.req = true) :
    headJudged (enterTagWait h s) = true := by
  unfold enterTagWait
  split
  next hcounted => exact headJudged_of_tagConflict hh hc hcounted
  next => exact headJudged_of_tagConflict (h := { h with tagWaitCounted := true }) rfl hc rfl

/-- A slot wait that is entered has been counted (R69). -/
theorem headJudged_enterSlotWait {h : Head} (hh : s.hostPort.head = some h) (hc : tagConflict s h.req = false)
    (hfree : freeSlot s = none) : headJudged (enterSlotWait h s) = true := by
  unfold enterSlotWait
  split
  next hcounted => exact headJudged_of_full hh hc hfree hcounted
  next => exact headJudged_of_full (h := { h with slotWaitCounted := true }) rfl hc hfree rfl

/-- The judgment of the head leaves it judged: it is taken, it waits for a pick, or its wait is counted (R53). -/
theorem headJudged_judgeHead (s : State) : headJudged (judgeHead s) = true := by
  unfold judgeHead
  split
  next hh => exact headJudged_of_no_head hh
  next h hh =>
    split
    next hc => exact headJudged_enterTagWait hh hc
    next hc =>
      rw [Bool.not_eq_true] at hc
      split
      next a hd => simp [headJudged, hh, hc, hd]
      next hd => simp [headJudged, hh, hc, hd]
      next a b hd =>
        split
        next i hi => exact headJudged_of_no_head (by simp)
        next hfree => exact headJudged_enterSlotWait hh hc hfree
      next c a hd =>
        split
        next i hi => exact headJudged_of_no_head (by simp)
        next hfree => exact headJudged_enterSlotWait hh hc hfree

theorem headJudged_settle (s : State) : headJudged (settle s) = true := headJudged_judgeHead _

theorem headStaysJudged_of_not_running (h : t.power.phase ≠ .running) : HeadJudged t := fun hr => absurd hr h

/-- What leaves phase, head and the inputs of its disposition leaves the head judged. -/
theorem headStaysJudged_of_same (hs : HeadJudged s) (h : SameAdmission s t := by exact {})
    (hp : t.power.phase = s.power.phase := by rfl) (hh : t.hostPort.head = s.hostPort.head := by rfl) : HeadJudged t :=
  fun hr => (h.headJudged hh).trans (hs (hp.symm.trans hr))

/-! ### The traffic path -/

theorem headStaysJudged_offerHead (r : Request) (hs : HeadJudged s) : HeadJudged (offerHead r s) := by
  unfold offerHead
  split
  · exact hs
  · dsimp only
    split
    next => exact fun _ => headJudged_judgeHead _
    next hclosed => exact headStaysJudged_of_not_running fun hr => hclosed (portsOpen_of_running hr)

theorem headStaysJudged_takeHeldEvent (hs : HeadJudged s) : HeadJudged (takeHeldEvent s) := by
  unfold takeHeldEvent
  split
  · split
    · exact hs
    · split
      next => exact fun _ => headJudged_of_no_head (by simp)
      all_goals exact hs
  · exact hs

theorem headStaysJudged_takeRefusingEvent (hs : HeadJudged s) : HeadJudged (takeRefusingEvent s) := by
  unfold takeRefusingEvent
  split
  · split
    · exact hs
    · split
      · exact hs
      · split
        next => exact fun _ => headJudged_of_no_head (by simp)
        all_goals exact hs
  · exact hs

theorem headStaysJudged_mPortReady (hs : HeadJudged s) : HeadJudged (mPortReady s) := by
  unfold mPortReady
  split
  · split
    next c _ => cases c <;> exact fun _ => headJudged_settle _
    next => exact hs
  · exact hs

theorem headStaysJudged_matchResponse (hs : HeadJudged s) : HeadJudged (matchResponse s) := by
  unfold matchResponse
  repeat' split
  all_goals exact headStaysJudged_of_same hs

theorem headStaysJudged_offerResponse (r : MemoryResponse) (hs : HeadJudged s) : HeadJudged (offerResponse r s) := by
  unfold offerResponse
  split
  · exact hs
  · dsimp only
    split
    · exact headStaysJudged_matchResponse (headStaysJudged_of_same hs)
    · exact headStaysJudged_of_same hs

theorem headStaysJudged_hPortReady (hs : HeadJudged s) : HeadJudged (hPortReady s) := by
  unfold hPortReady
  split
  · split
    · exact hs
    · exact fun _ => headJudged_settle _
    · exact fun _ => headJudged_judgeHead _
    · split
      · exact fun _ => headJudged_settle _
      · exact fun _ => headJudged_judgeHead _
  · exact hs

/-! ### The grid -/

theorem headStaysJudged_sliceBoundaryEvent (s : State) : HeadJudged (sliceBoundaryEvent s) :=
  fun _ => headJudged_judgeHead _

theorem headStaysJudged_tickEvent (hs : HeadJudged s) : HeadJudged (tickEvent s) := by
  unfold tickEvent
  split
  · exact headStaysJudged_of_same hs
  · exact headStaysJudged_sliceBoundaryEvent s

theorem headStaysJudged_gridCycle (hs : HeadJudged s) : HeadJudged (gridCycle s) := by
  unfold gridCycle
  split
  · exact headStaysJudged_of_same hs
  · exact headStaysJudged_tickEvent (headStaysJudged_of_same hs)

theorem headStaysJudged_atTick {bring : State → State}
    (hb : ∀ s, bring s = tickEvent s ∨ bring s = sliceBoundaryEvent s ∨ bring s = s) (hs : HeadJudged s) :
    HeadJudged (atTick bring s) := by
  unfold atTick
  split
  · split
    · exact headStaysJudged_of_same hs
    · rcases hb s with h | h | h
      · exact h ▸ headStaysJudged_tickEvent hs
      · exact h ▸ headStaysJudged_sliceBoundaryEvent s
      · exact h.symm ▸ hs
  · exact hs

/-! ### The Command Executor -/

/-- A command that changes an input of the disposition judges the head; the others leave head and inputs (R53, R134, R89,
R90). -/
theorem headStaysJudged_perform (c : Command) (p : List Byte) (hs : HeadJudged s) : HeadJudged (perform c p s).1 := by
  cases c with
  | identify | readAccount | readMap | readGlobals | readHold => exact hs
  | writeAccount | writeMap | writeGlobals | copyLiveToStaged | cancelCommit | ackAlert | setAlertEnable | clearCapture =>
    exact headStaysJudged_of_same hs
  | status | commit | readCapture =>
    simp only [perform, performStatus, performCommit, performReadCapture]
    split <;> exact headStaysJudged_of_same hs
  | readCounters =>
    unfold perform performReadCounters
    dsimp only
    split
    · exact headStaysJudged_of_same hs
        { balance := updateAccount_keeps s Account.balance (f := clearCounters) (fun _ => rfl) _
          issued := updateAccount_keeps s Account.outstanding (f := clearCounters) (fun _ => rfl) _ }
    · exact hs
  | flush =>
    unfold perform performFlush
    dsimp only
    split
    · exact fun _ => headJudged_judgeHead _
    · exact fun _ => headJudged_settle _
  | setMode => exact fun _ => headJudged_settle _

/-! ### Link work -/

/-- What an event of the link does at a time: it changes the Link Interface, the alert causes and the levels to come on MDI
alone, or the Command Executor carries out a command that has passed the checks of R170. -/
inductive LinkWork (s : State) : State → Prop
  | link (l : LinkInterface) (a : AlertUnit) (m : List Bool) : LinkWork s { s with link := l, alert := a, mdi := m }
  | command (c : Command) (p : List Byte) (range : payloadInRange c p = true)
      (free : c.refusedWhilePending = true → s.store.commitPending = false) : LinkWork s (perform c p s).1

/-- A chain of link work. -/
abbrev LinkWorks : State → State → Prop := Relation.ReflTransGen LinkWork

theorem LinkWorks.link (s : State) (l : LinkInterface) (a : AlertUnit) (m : List Bool) :
    LinkWorks s { s with link := l, alert := a, mdi := m } := .single (.link l a m)

/-- What the link and the commands keep, a chain of link work keeps. -/
theorem LinkWorks.keeps {P : State → Prop}
    (hlink : ∀ {s : State} l a m, P s → P { s with link := l, alert := a, mdi := m })
    (hcommand : ∀ {s : State} c p, P s → P (perform c p s).1) (h : LinkWorks s t) (hs : P s) : P t := by
  induction h with
  | refl => exact hs
  | tail _ w ih =>
    cases w with
    | link l a m => exact hlink l a m ih
    | command c p _ _ => exact hcommand c p ih

theorem linkWorks_execute (code : Byte) (p : List Byte) (s : State) : LinkWorks s (execute code p s).1 := by
  unfold execute
  split
  · exact .refl
  next c _ =>
    split
    · exact .refl
    · split
      · exact .refl
      next hrange =>
        split
        · exact .refl
        next hpending =>
          exact .single (.command c p (by simpa using hrange) fun hc => by simpa [hc] using hpending)

theorem linkWorks_setLinkState (st : LinkState) (s : State) : LinkWorks s (setLinkState st s) := .link s _ _ _

theorem linkWorks_countLinkError (s : State) : LinkWorks s (countLinkError s) := .link s _ _ _

theorem linkWorks_linkError (st : LinkState) (s : State) : LinkWorks s (setLinkState st (countLinkError s)) := .link s _ _ _

theorem linkWorks_selectEvent (value : Byte) (s : State) : LinkWorks s (selectEvent value s) := by
  unfold selectEvent
  split
  · exact .link s _ _ _
  · exact .refl

theorem linkWorks_completeUnicast (code : Byte) (p : List Byte) (sum : Byte) (s : State) :
    LinkWorks s (completeUnicast code p sum s) := by
  unfold completeUnicast
  split
  · exact (linkWorks_execute code p s).trans (linkWorks_setLinkState _ _)
  · exact linkWorks_linkError _ s

theorem linkWorks_completeBroadcast (code : Byte) (p : List Byte) (sum : Byte) (s : State) :
    LinkWorks s (completeBroadcast code p sum s) := by
  unfold completeBroadcast
  split
  · exact (linkWorks_execute code p s).trans (linkWorks_setLinkState _ _)
  · exact linkWorks_linkError _ s

theorem linkWorks_frameByte (bc : Bool) (f : Frame) (b : Byte) (s : State) : LinkWorks s (frameByte bc f b s) := by
  unfold frameByte
  split
  · split
    · exact linkWorks_setLinkState _ s
    · exact linkWorks_linkError _ s
  · split
    · exact linkWorks_setLinkState _ s
    · split
      · exact linkWorks_completeBroadcast ..
      · exact linkWorks_completeUnicast ..

theorem linkWorks_dataEvent (b : Byte) (s : State) : LinkWorks s (dataEvent b s) := by
  unfold dataEvent
  split
  · split
    case h_1 => exact .refl
    case h_4 => exact linkWorks_frameByte ..
    case h_5 => exact linkWorks_frameByte ..
    all_goals exact .link s _ _ _
  · exact .refl

theorem linkWorks_receiveFrame (code : Byte) (p : List Byte) (s : State) : LinkWorks s (receiveFrame code p s) := by
  unfold receiveFrame
  induction commandFrame code p generalizing s with
  | nil => exact .refl
  | cons b bs ih => exact (linkWorks_dataEvent b s).trans (ih _)

theorem linkWorks_framingErrorEvent (s : State) : LinkWorks s (framingErrorEvent s) := by
  unfold framingErrorEvent
  repeat' split
  all_goals exact .link s _ _ _

theorem linkWorks_frameTimeoutEvent (s : State) : LinkWorks s (frameTimeoutEvent s) := by
  unfold frameTimeoutEvent
  repeat' split
  all_goals exact .link s _ _ _

theorem linkWorks_breakEvent (s : State) : LinkWorks s (breakEvent s) := by
  unfold breakEvent
  split <;> exact .link s _ _ _

theorem linkWorks_endOfBreakEvent (s : State) : LinkWorks s (endOfBreakEvent s) := by
  unfold endOfBreakEvent
  split <;> exact .link s _ _ _

theorem linkWorks_turnaroundEvent (s : State) : LinkWorks s (turnaroundEvent s) := by
  unfold turnaroundEvent
  repeat' split
  all_goals exact .link s _ _ _

theorem linkWorks_responseEndEvent (s : State) : LinkWorks s (responseEndEvent s) := by
  unfold responseEndEvent
  repeat' split
  all_goals exact .link s _ _ _

theorem linkWorks_linkTimers (s : State) : LinkWorks s (linkTimers s) := by
  unfold linkTimers nextCharacter
  dsimp only
  repeat' split
  all_goals exact .link s _ _ _

theorem linkWorks_handleLine (e : Option LineEvent) (s : State) : LinkWorks s (handleLine e s) := by
  unfold handleLine
  split
  · exact .refl
  · exact linkWorks_selectEvent _ s
  · exact linkWorks_dataEvent _ s
  · exact linkWorks_framingErrorEvent s

/-- The receiver changes and hands over what it has received (R156). -/
theorem linkWorks_received (r : Receiver) (low : Nat) (e : Option LineEvent) (s : State) :
    LinkWorks s (handleLine e (setReceiver r low s)) :=
  Relation.ReflTransGen.trans (LinkWorks.link s _ _ _) (linkWorks_handleLine e _)

theorem linkWorks_mdiEdge (s : State) : LinkWorks s (mdiEdge s) := by
  have heard : LinkWorks s (if s.link.inBreak && mdiLevel s then endOfBreakEvent s else s) := by
    split
    · exact linkWorks_endOfBreakEvent s
    · exact .refl
  unfold mdiEdge
  dsimp only
  generalize (if s.link.inBreak && mdiLevel s then endOfBreakEvent s else s) = u at heard ⊢
  split
  · exact heard
  · exact heard.trans (linkWorks_received ..)

theorem linkWorks_mdiCycle (s : State) : LinkWorks s (mdiCycle s) := by
  have passed : LinkWorks s { s with mdi := s.mdi.drop 1 } := .link s _ _ _
  unfold mdiCycle
  dsimp only
  generalize (if mdiLevel s then 0 else s.link.lowFor + 1) = low
  split
  · exact passed
  · split
    · exact passed.trans (linkWorks_breakEvent _)
    · exact passed.trans (linkWorks_received ..)

theorem linkWorks_linkMoment (s : State) : LinkWorks s (linkMoment s) := by
  unfold linkMoment gapCheck
  split
  · exact (linkWorks_mdiEdge s).trans (linkWorks_frameTimeoutEvent _)
  · exact linkWorks_mdiEdge s

theorem linkWorks_linkCycle (s : State) : LinkWorks s (linkCycle s) :=
  (linkWorks_linkMoment s).trans
    ((linkWorks_linkTimers _).trans ((linkWorks_mdiCycle _).trans (linkWorks_linkMoment _)))

/-- Link work leaves the head judged. -/
theorem LinkWorks.headStaysJudged (h : LinkWorks s t) (hs : HeadJudged s) : HeadJudged t :=
  h.keeps (P := HeadJudged) (fun _ _ _ hs => headStaysJudged_of_same hs) (fun c p hs => headStaysJudged_perform c p hs) hs

/-! ### Power and REFCLK -/

theorem headStaysJudged_refclkCycle (hs : HeadJudged s) : HeadJudged (refclkCycle s) := by
  unfold refclkCycle
  split
  · exact headStaysJudged_gridCycle ((linkWorks_linkCycle s).headStaysJudged hs)
  · exact hs

theorem headStaysJudged_refclkStopEvent (hs : HeadJudged s) : HeadJudged (refclkStopEvent s) := by
  unfold refclkStopEvent
  dsimp only
  repeat' split
  all_goals exact headStaysJudged_of_same hs

theorem headStaysJudged_refclkResumeEvent (hs : HeadJudged s) : HeadJudged (refclkResumeEvent s) := by
  unfold refclkResumeEvent
  dsimp only
  repeat' split
  all_goals exact headStaysJudged_of_same hs

theorem headStaysJudged_powerOnResetEvent (change : ResetChange) (hs : HeadJudged s) :
    HeadJudged (powerOnResetEvent change s) := by
  unfold powerOnResetEvent
  split
  next src =>
    split
    · cases src <;> exact headStaysJudged_of_same hs
    · exact fun _ => headJudged_of_no_head rfl
  next src => cases src <;> exact headStaysJudged_of_same hs

theorem headStaysJudged_initialisationEvent (stn : BitVec 5) (rate : BitVec 2) (hs : HeadJudged s) :
    HeadJudged (initialisationEvent stn rate s) := by
  unfold initialisationEvent
  split
  · exact headStaysJudged_of_not_running (by simp)
  · exact hs

theorem headStaysJudged_initialisationCompleteEvent (high : Bool) (hs : HeadJudged s) :
    HeadJudged (initialisationCompleteEvent high s) := by
  unfold initialisationCompleteEvent
  split
  · exact fun _ => headJudged_judgeHead _
  · exact hs

/-! ### Every command, every step -/

theorem exec_headStaysJudged (c : Instr) (hs : HeadJudged s) : ∃ t, exec c s = .next t ∧ HeadJudged t := by
  by_cases hrow : c ∈ tickRows
  · obtain ⟨bring, hexec, hb⟩ := exec_of_mem_tickRows hrow
    exact ⟨_, hexec s, headStaysJudged_atTick hb hs⟩
  have linkEvent : ∀ {t}, exec c s = .next t → LinkWorks s t → ∃ t, exec c s = .next t ∧ HeadJudged t :=
    fun he h => ⟨_, he, h.headStaysJudged hs⟩
  cases c with
  | tick | sliceBoundary | periodBoundary | expiry | publication => exact absurd (by decide) hrow
  | offer r => exact ⟨_, rfl, headStaysJudged_offerHead r hs⟩
  | takeHeld => exact ⟨_, rfl, headStaysJudged_takeHeldEvent hs⟩
  | takeRefusing => exact ⟨_, rfl, headStaysJudged_takeRefusingEvent hs⟩
  | mPortReadyEvent => exact ⟨_, rfl, headStaysJudged_mPortReady hs⟩
  | memoryResponse r => exact ⟨_, rfl, headStaysJudged_offerResponse r hs⟩
  | hPortReadyEvent => exact ⟨_, rfl, headStaysJudged_hPortReady hs⟩
  | regulationRestart =>
    refine ⟨_, rfl, ?_⟩
    split
    · exact fun _ => headJudged_settle _
    · exact hs
  | regenFall =>
    refine ⟨_, rfl, ?_⟩
    split
    · exact fun _ => headJudged_settle _
    · exact hs
  | powerOnReset change => exact ⟨_, rfl, headStaysJudged_powerOnResetEvent change hs⟩
  | initialisation stn rate => exact ⟨_, rfl, headStaysJudged_initialisationEvent stn rate hs⟩
  | initialisationComplete high => exact ⟨_, rfl, headStaysJudged_initialisationCompleteEvent high hs⟩
  | refclkStop => exact ⟨_, rfl, headStaysJudged_refclkStopEvent hs⟩
  | refclkResume => exact ⟨_, rfl, headStaysJudged_refclkResumeEvent hs⟩
  | selectCharacter value => exact linkEvent rfl (linkWorks_selectEvent value s)
  | dataCharacter value => exact linkEvent rfl (linkWorks_dataEvent value s)
  | framingError => exact linkEvent rfl (linkWorks_framingErrorEvent s)
  | frameTimeout => exact linkEvent rfl (linkWorks_frameTimeoutEvent s)
  | linkBreak => exact linkEvent rfl (linkWorks_breakEvent s)
  | responseTurnaround => exact linkEvent rfl (linkWorks_turnaroundEvent s)
  | responseEnd => exact linkEvent rfl (linkWorks_responseEndEvent s)
  | endOfBreak => exact linkEvent rfl (linkWorks_endOfBreakEvent s)
  | unknownCommand | identify | statusKeep | statusClear | readAccount | writeAccount | readMap | writeMap
  | readGlobals | writeGlobals | copyLiveToStaged | commit | cancelCommit | readCountersKeep | readCountersClear
  | readHold | flushRelease | flushRefuse | readCapture | clearCapture | setMode | ackAlert | setAlertEnable =>
    exact linkEvent rfl (linkWorks_receiveFrame _ _ s)

/-- Settles O56: every event ends in a judgment of the head, or leaves the head and the inputs of its disposition. -/
theorem headStaysJudged : Obligations.HeadStaysJudged := by
  intro s t hs hstep
  cases hp : s.pending with
  | nil =>
    obtain rfl := Host.Outcome.next.inj ((step_idle hp).symm.trans hstep)
    exact headStaysJudged_refclkCycle hs
  | cons c rest =>
    have hfront : HeadJudged { s with pending := rest } := headStaysJudged_of_same hs
    obtain ⟨u, hu, hjudged⟩ := exec_headStaysJudged c hfront
    obtain rfl := Host.Outcome.next.inj (hu.symm.trans ((step_of_front hp).symm.trans hstep))
    exact hjudged

end Sys2Proof.Machine

/-! SUPPORT. Admission at the host port: the form check and the byte ranges in natural numbers (R52, R54, R61), the admission test
as one chain of conditions (R59 to R64), the disposition of the head (R53, R65), its taking at OFFER and at the TAKE rows (R51, R57,
R66 to R69), and its issue (R66, R103). -/

namespace Sys2Proof.Machine

open Sys2Proof.Safety

variable {s : State}

/-! ### The form check and byte ranges -/

theorem wellFormed_iff (r : Request) : r.wellFormed = true ↔ 1 ≤ r.len ∧ r.len ≤ 16 := by
  simp only [Request.wellFormed, Bool.and_eq_true, decide_eq_true_eq]

/-- The alignment test of the form check, on the address as a number (R54). -/
theorem addr_unaligned_iff (r : Request) : r.addr % 8 ≠ 0 ↔ ¬ 8 ∣ r.addr.toNat := by
  rw [ne_eq, BitVec.toNat_eq, BitVec.toNat_umod, Nat.dvd_iff_mod_eq_zero]
  rfl

/-- The page test of the form check, on numbers: a range that wraps also leaves its page (R54, R52). -/
theorem pageOf_lastByte_ne_iff {r : Request} (hr : r.wellFormed = true) :
    pageOf (lastByte r) ≠ pageOf r.addr ↔ (r.addr.toNat + 8 * r.len - 1) / 4096 ≠ r.addr.toNat / 4096 := by
  obtain ⟨hlow, hhigh⟩ := (wellFormed_iff r).mp hr
  have haddr := r.addr.isLt
  rw [ne_eq, BitVec.toNat_eq, pageOf_toNat, pageOf_toNat, lastByte_toNat hlow hhigh]
  omega

/-- An absent list of data counts as no beats (R54). -/
theorem dataBeats_eq (r : Request) : dataBeats r = (r.data.getD []).length := by
  unfold dataBeats
  cases r.data <;> rfl

/-- The form check in natural numbers (R54). -/
theorem malformed_iff {r : Request} (hr : r.wellFormed = true) :
    malformed r = true ↔
      ¬ 8 ∣ r.addr.toNat ∨ (r.addr.toNat + 8 * r.len - 1) / 4096 ≠ r.addr.toNat / 4096 ∨
      (r.dir = .write ∧ (r.data.getD []).length ≠ r.len) ∨ (r.dir = .read ∧ r.data ≠ none) := by
  simp only [malformed, Bool.or_eq_true, Bool.and_eq_true, beq_iff_eq, bne_iff_ne, addr_unaligned_iff,
    pageOf_lastByte_ne_iff hr, dataBeats_eq, Option.isSome_iff_ne_none, or_assoc]

/-- The byte range of a request that passes the form check does not wrap (R52, R54). -/
theorem lastByte_toNat_of_formed {r : Request} (hr : r.wellFormed = true) (hf : malformed r = false) :
    (lastByte r).toNat = r.addr.toNat + 8 * r.len - 1 := by
  have hpage : (r.addr.toNat + 8 * r.len - 1) / 4096 = r.addr.toNat / 4096 := by
    by_contra hne
    exact Bool.eq_false_iff.mp hf ((malformed_iff hr).mpr (.inr (.inl hne)))
  obtain ⟨hlow, hhigh⟩ := (wellFormed_iff r).mp hr
  have haddr := r.addr.isLt
  rw [lastByte_toNat hlow hhigh]
  omega

/-- The overlap of two byte ranges that do not wrap (R61). -/
theorem overlaps_iff {a b : Request} (ha : a.wellFormed = true) (hb : b.wellFormed = true) (hfa : malformed a = false)
    (hfb : malformed b = false) :
    overlaps a b = true ↔
      a.addr.toNat ≤ b.addr.toNat + 8 * b.len - 1 ∧ b.addr.toNat ≤ a.addr.toNat + 8 * a.len - 1 := by
  simp only [overlaps, Bool.and_eq_true, decide_eq_true_eq, BitVec.le_def, lastByte_toNat_of_formed ha hfa,
    lastByte_toNat_of_formed hb hfb]

/-- Settles O17: the tests of the form check one by one, and ranges that stay inside a page. -/
theorem formCheckAndByteRangeOverlap : Obligations.FormCheckAndByteRangeOverlap :=
  fun _ _ ha hb => ⟨malformed_iff ha, overlaps_iff ha hb⟩

/-! ### The admission test -/

theorem idOrderApplies_iff (r : Request) (older : List HeldRecord) :
    idOrderApplies r older = true ↔ ∃ h ∈ older, h.req.id = r.id := by
  simp only [idOrderApplies, List.any_eq_true, beq_iff_eq]

theorem hazardApplies_iff (r : Request) (older : List HeldRecord) :
    hazardApplies r older = true ↔ ∃ h ∈ older, overlaps h.req r = true ∧ (h.req.dir = .write ∨ r.dir = .write) := by
  simp only [hazardApplies, List.any_eq_true, Bool.and_eq_true, Bool.or_eq_true, beq_iff_eq]

theorem accountOrderApplies_iff (a : AccountIndex) (older : List HeldRecord) :
    accountOrderApplies a older = true ↔ ∃ h ∈ older, h.account = a := by
  simp only [accountOrderApplies, List.any_eq_true, beq_iff_eq]

theorem regulationActive_iff (s : State) :
    regulationActive s = true ↔ s.reg.mode = .enforce ∧ s.reg.regenHigh = true := by
  simp only [regulationActive, Bool.and_eq_true, beq_iff_eq]

theorem restrained_iff (s : State) (a : AccountIndex) :
    restrained s a = true ↔
      regulationActive s = true ∧ ((liveParams s a).mode = .hold ∨ (liveParams s a).mode = .refuse) := by
  simp only [restrained, Bool.and_eq_true, Bool.or_eq_true, beq_iff_eq]

theorem capApplies_iff (s : State) (a : AccountIndex) (exempt : Bool) :
    capApplies s a exempt = true ↔ exempt = false ∧ restrained s a = true ∧ (liveParams s a).cap ≠ 0 ∧
      (liveParams s a).cap ≤ (accountOf s a).outstanding := by
  simp only [capApplies, Bool.and_eq_true, Bool.not_eq_true', bne_iff_ne, decide_eq_true_eq]
  tauto

theorem creditApplies_iff (s : State) (a : AccountIndex) (exempt : Bool) (r : Request) :
    creditApplies s a exempt r = true ↔ exempt = false ∧ restrained s a = true ∧
      (accountOf s a).balance < cost (liveParams s a) r := by
  simp only [creditApplies, Bool.and_eq_true, Bool.not_eq_true', decide_eq_true_eq]
  tauto

/-- The cost of a request by its direction (R4). -/
theorem cost_eq (p : AccountParams) (r : Request) : cost p r = if r.dir = .write then r.len * p.weight else r.len := by
  unfold cost
  cases r.dir <;> rfl

/-- Settles O19: blocker by blocker, what the test of each says. -/
theorem admissionTestTakesFirstBlocker : Obligations.AdmissionTestTakesFirstBlocker := by
  intro s a exempt r older p strict price
  have hstrict : strict ↔ exempt = false ∧ restrained s a = true := by
    rw [restrained_iff, regulationActive_iff, and_assoc]
  have hcap : capApplies s a exempt = true ↔ strict ∧ p.cap ≠ 0 ∧ p.cap ≤ (accountOf s a).outstanding := by
    rw [capApplies_iff, hstrict, and_assoc]
  have hcredit : creditApplies s a exempt r = true ↔ strict ∧ (accountOf s a).balance < price := by
    rw [creditApplies_iff, hstrict, and_assoc, cost_eq]
  exact if_congr (idOrderApplies_iff r older) rfl <| if_congr (hazardApplies_iff r older) rfl <|
    if_congr (accountOrderApplies_iff a older) rfl <| if_congr hcap rfl <| if_congr hcredit rfl rfl

/-! ### The disposition of the head -/

theorem tagConflict_of_not_inTagConflict {r : Request} (h : ¬InTagConflict s r) : tagConflict s r = false :=
  Bool.eq_false_iff.mpr fun hc => h ((tagConflict_iff r).mp hc)

theorem disposition_of_malformed {r : Request} (hm : malformed r = true) : disposition s r = .refuse .malformed none := by
  unfold disposition
  rw [if_pos hm]

theorem disposition_of_tagConflict {r : Request} (hm : malformed r = false) (hc : tagConflict s r = true) :
    disposition s r = .waitTag := by
  unfold disposition
  simp [hm, hc]

theorem disposition_of_unmapped {r : Request} (hm : malformed r = false) (hc : tagConflict s r = false)
    (ha : classify s.store.live r = none) : disposition s r = .refuse .unmapped none := by
  unfold disposition
  simp [hm, hc, ha]

theorem disposition_of_account {r : Request} {a : AccountIndex} (hm : malformed r = false) (hc : tagConflict s r = false)
    (ha : classify s.store.live r = some a) :
    disposition s r = dispositionOf s a (admissionTest s a false r (heldRecords s.pool)) := by
  unfold disposition
  simp [hm, hc, ha]

theorem dispositionOf_hold {a : AccountIndex} {b : Blocker} (hnone : b ≠ .none)
    (hrefuse : ¬(b = .credit ∧ (liveParams s a).mode = .refuse)) : dispositionOf s a b = .hold a b := by
  cases b with
  | none => exact absurd rfl hnone
  | credit => exact if_neg fun hm => hrefuse ⟨rfl, hm⟩
  | idOrder | hazard | accountOrder | cap => rfl

/-- CAP and CREDIT block only requests of a restrained account (R63, R64). -/
theorem restrained_of_admissionTest {a : AccountIndex} {exempt : Bool} {r : Request} {older : List HeldRecord}
    (h : admissionTest s a exempt r older = .cap ∨ admissionTest s a exempt r older = .credit) : restrained s a = true := by
  by_contra hfree
  have hcap : capApplies s a exempt = false := by simp [capApplies, hfree]
  have hcredit : creditApplies s a exempt r = false := by simp [creditApplies, hfree]
  unfold admissionTest at h
  rw [hcap, hcredit] at h
  split at h
  · simp at h
  · split at h
    · simp at h
    · split at h <;> simp at h

/-- Settles O20: the checks in their order, then the table from blocker to disposition. -/
theorem dispositionOfTheHead : Obligations.DispositionOfTheHead := by
  intro s r
  refine ⟨disposition_of_malformed, fun hm hc => disposition_of_tagConflict hm ((tagConflict_iff r).mpr hc),
    fun hm hc => disposition_of_unmapped hm (tagConflict_of_not_inTagConflict hc), fun a hm hc ha => ?_⟩
  intro b
  rw [disposition_of_account hm (tagConflict_of_not_inTagConflict hc) ha]
  refine ⟨fun hb => ?_, fun hb hmode => ?_, dispositionOf_hold, fun hfree => ?_⟩
  · exact congrArg (dispositionOf s a) hb
  · exact (congrArg (dispositionOf s a) hb).trans (if_pos hmode)
  · rw [← not_or]
    intro hb
    obtain ⟨hactive, hmode⟩ := (restrained_iff s a).mp (restrained_of_admissionTest hb)
    rcases hfree with hmeter | hinactive
    · simp [hmeter] at hmode
    · simp [hinactive] at hactive

/-- A blocker refuses a head for CREDIT alone, with its account (R65). -/
theorem dispositionOf_eq_refuse {a : AccountIndex} {b : Blocker} {c : Cause} {x : Option AccountIndex}
    (h : dispositionOf s a b = .refuse c x) : c = .credit ∧ x = some a := by
  cases b with
  | none | idOrder | hazard | accountOrder | cap => exact Disposition.noConfusion h
  | credit =>
    simp only [dispositionOf] at h
    split at h
    · obtain ⟨rfl, rfl⟩ := Disposition.refuse.inj h
      exact ⟨rfl, rfl⟩
    · exact Disposition.noConfusion h

/-- Cause CREDIT comes from an account, and no other cause of a refused head does (R65, R144). -/
theorem refuse_account_iff {r : Request} {c : Cause} {a : Option AccountIndex} (hd : disposition s r = .refuse c a) :
    a = none ↔ c ≠ .credit := by
  unfold disposition at hd
  split at hd
  · obtain ⟨rfl, rfl⟩ := Disposition.refuse.inj hd
    decide
  · split at hd
    · exact Disposition.noConfusion hd
    · split at hd
      · obtain ⟨rfl, rfl⟩ := Disposition.refuse.inj hd
        decide
      · obtain ⟨rfl, rfl⟩ := dispositionOf_eq_refuse hd
        simp

/-- A refusal with an account has cause CREDIT (R68). -/
theorem cause_of_refuse_account {r : Request} {c : Cause} {a : AccountIndex} (hd : disposition s r = .refuse c (some a)) :
    c = .credit := by
  by_contra hc
  simpa using (refuse_account_iff hd).mpr hc

/-! ### The judgment of the head, case by case -/

section
variable {h : Head}

theorem judgeHead_of_tagConflict (hh : s.hostPort.head = some h) (hc : tagConflict s h.req = true) :
    judgeHead s = enterTagWait h s := by
  simp [judgeHead, hh, hc]

theorem judgeHead_of_issue {a : AccountIndex} (hh : s.hostPort.head = some h) (hd : disposition s h.req = .issue a) :
    judgeHead s = s := by
  have hc := tagConflict_eq_false_of_disposition (.inl ⟨a, hd⟩)
  simp [judgeHead, hh, hc, hd]

theorem judgeHead_of_hold {a : AccountIndex} {b : Blocker} {i : SlotIndex} (hh : s.hostPort.head = some h)
    (hd : disposition s h.req = .hold a b) (hfree : freeSlot s = some i) : judgeHead s = takeHeld h.req a b i s := by
  have hc := tagConflict_eq_false_of_disposition (.inr ⟨a, b, hd⟩)
  simp [judgeHead, hh, hc, hd, hfree]

theorem judgeHead_of_refuse {c : Cause} {a : Option AccountIndex} {i : SlotIndex} (hh : s.hostPort.head = some h)
    (hc : tagConflict s h.req = false) (hd : disposition s h.req = .refuse c a) (hfree : freeSlot s = some i) :
    judgeHead s = takeRefusing h.req c a i s := by
  simp [judgeHead, hh, hc, hd, hfree]

theorem judgeHead_of_full (hh : s.hostPort.head = some h) (hc : tagConflict s h.req = false) (hfree : freeSlot s = none)
    (hd : (∃ a b, disposition s h.req = .hold a b) ∨ ∃ c a, disposition s h.req = .refuse c a) :
    judgeHead s = enterSlotWait h s := by
  rcases hd with ⟨a, b, hd⟩ | ⟨c, a, hd⟩
  · simp [judgeHead, hh, hc, hd, hfree]
  · simp [judgeHead, hh, hc, hd, hfree]

end

/-! ### OFFER -/

/-- A head no wait of which has been counted (R53). -/
def freshHead (r : Request) : Head := { req := r, tagWaitCounted := false, slotWaitCounted := false }

/-- The request offered as the head, not yet judged (R51). -/
def withOffered (r : Request) (s : State) : State :=
  { s with hostPort := { s.hostPort with head := some (freshHead r) } }

theorem withOffered_head (r : Request) (s : State) : (withOffered r s).hostPort.head = some (freshHead r) := rfl

/-- An offer to an empty channel is the judgment of the head offered (R51, R53). -/
theorem exec_offer (hr : Running s) (hn : s.hostPort.head = none) (r : Request) :
    exec (.offer r) s = .next (judgeHead (withOffered r s)) := by
  have hoffer : offerHead r s = judgeHead (withOffered r s) := by
    unfold offerHead
    rw [hn, portsOpen_of_running hr]
    rfl
  exact congrArg _ hoffer

theorem exec_offer_of_head (hh : s.hostPort.head ≠ none) (r : Request) : exec (.offer r) s = .next s := by
  have hoffer : offerHead r s = s := if_pos (Option.isSome_iff_ne_none.mpr hh)
  exact congrArg _ hoffer

/-- An offer changes no input of the disposition. -/
theorem sameAdmission_withOffered (r : Request) (s : State) : SameAdmission s (withOffered r s) := {}

/-- Settles O21: at the offer the head is judged, and the disposition tells which of the waits begins. -/
theorem offeredHeadWaits : Obligations.OfferedHeadWaits := by
  intro r s hr
  have same := sameAdmission_withOffered r s
  refine ⟨fun hn => ⟨fun a hd => ?_, fun hc => ?_, fun hc hfull hd => ?_⟩, fun hh => exec_offer_of_head hh r⟩
  · rw [exec_offer hr hn, judgeHead_of_issue (withOffered_head r s) ((same.disposition r).trans hd)]
    rfl
  · rw [exec_offer hr hn, judgeHead_of_tagConflict (withOffered_head r s)
      ((same.tagConflict r).trans ((tagConflict_iff r).mpr hc))]
    rfl
  · rw [exec_offer hr hn, judgeHead_of_full (withOffered_head r s)
      ((same.tagConflict r).trans (tagConflict_of_not_inTagConflict hc))
      (same.freeSlot.trans (freeSlot_eq_none hfull)) (by simpa only [freshHead, same.disposition] using hd)]
    rfl

/-! ### The taking of the head -/

/-- TAKE_HELD takes a waiting head with the disposition HOLD where a slot is FREE (R67). -/
theorem exec_takeHeld {h : Head} {a : AccountIndex} {b : Blocker} {i : SlotIndex} (hr : Running s)
    (hh : s.hostPort.head = some h) (hd : disposition s h.req = .hold a b) (hfree : freeSlot s = some i) :
    exec .takeHeld s = .next (takeHeld h.req a b i s) := by
  have htake : takeHeldEvent s = takeHeld h.req a b i s := by
    simp [takeHeldEvent, portsOpen_of_running hr, hh, hd, hfree]
  exact congrArg _ htake

/-- TAKE_REFUSING takes a waiting head with the disposition REFUSE where a slot is FREE (R68, R57). -/
theorem exec_takeRefusing {h : Head} {c : Cause} {a : Option AccountIndex} {i : SlotIndex} (hr : Running s)
    (hh : s.hostPort.head = some h) (hc : tagConflict s h.req = false) (hd : disposition s h.req = .refuse c a)
    (hfree : freeSlot s = some i) : exec .takeRefusing s = .next (takeRefusing h.req c a i s) := by
  have htake : takeRefusingEvent s = takeRefusing h.req c a i s := by
    simp [takeRefusingEvent, portsOpen_of_running hr, hh, hc, hd, hfree]
  exact congrArg _ htake

/-- Settles O22: at the offer and at TAKE_HELD the same taking comes about. -/
theorem headTakenAsHeld : Obligations.HeadTakenAsHeld := by
  intro r a b i s hr hlow hd acc taken
  have hfree := freeSlot_eq_some hlow
  have same := sameAdmission_withOffered r s
  refine ⟨fun hn => ?_, fun h hh hreq => ?_⟩
  · rw [exec_offer hr hn, judgeHead_of_hold (withOffered_head r s) ((same.disposition r).trans hd) (same.freeSlot.trans hfree)]
    rfl
  · subst hreq
    rw [exec_takeHeld hr hh hd hfree]
    rfl

/-- Settles O23: at the offer and at TAKE_REFUSING the same taking comes about, with an account for cause CREDIT alone. -/
theorem headTakenAsRefusing : Obligations.HeadTakenAsRefusing := by
  intro r c a i s hr hlow hc hd taken
  have hfree := freeSlot_eq_some hlow
  have hfresh := tagConflict_of_not_inTagConflict hc
  have same := sameAdmission_withOffered r s
  have htaken : takeRefusing r c a i s = taken ∧ takeRefusing r c a i (withOffered r s) = taken := by
    cases a with
    | none => exact ⟨rfl, rfl⟩
    | some a =>
      obtain rfl := cause_of_refuse_account hd
      exact ⟨rfl, rfl⟩
  refine ⟨refuse_account_iff hd, fun hn => ?_, fun h hh hreq => ?_⟩
  · rw [exec_offer hr hn, judgeHead_of_refuse (withOffered_head r s) ((same.tagConflict r).trans hfresh)
      ((same.disposition r).trans hd)
      (same.freeSlot.trans hfree)]
    exact congrArg _ htaken.2
  · subst hreq
    rw [exec_takeRefusing hr hh hfresh hd hfree, htaken.1]

/-! ### The issue of the head -/

/-- The head is issued and leaves the channel (R66, R103). -/
def headIssued (r : Request) (a : AccountIndex) (s : State) : State :=
  let issued := issueRequest r a false s
  { issued with hostPort := { issued.hostPort with head := none } }

/-- With a head picked, the M-port ready event issues it and settles the pool (R66, R100, R103). -/
theorem exec_mPortReady_of_head {r : Request} {a : AccountIndex} (hr : Running s) (hroom : s.outstanding.length < 16)
    (hp : pick s = some (.head r a)) : exec .mPortReadyEvent s = .next (settle (headIssued r a s)) := by
  have hready : mPortReady s = settle (headIssued r a s) := by
    unfold mPortReady
    have hroom' : s.outstanding.length < Config.outstandingMax := hroom
    rw [portsOpen_of_running hr, hp, decide_eq_true hroom']
    rfl
  exact congrArg _ hready

/-- With 16 requests outstanding or no candidate, the M-port ready event lapses (R100). -/
theorem exec_mPortReady_of_lapse (h : 16 ≤ s.outstanding.length ∨ pick s = none) : exec .mPortReadyEvent s = .next s := by
  have hready : mPortReady s = s := by
    unfold mPortReady
    rcases h with hfull | hnone
    · have hroom : ¬ s.outstanding.length < Config.outstandingMax := Nat.not_lt.mpr hfull
      rw [decide_eq_false hroom, Bool.and_false, if_neg Bool.false_ne_true]
    · rw [hnone, ite_self]
  exact congrArg _ hready

/-- The issue of the head changes its account alone (R6 to R8). -/
theorem accountOf_headIssued (r : Request) (a : AccountIndex) (s : State) (b : AccountIndex) :
    accountOf (headIssued r a s) b =
      if a = b then countIssue r.len (chargeAccount (restrained s a) (cost (liveParams s a) r) (accountOf s a))
      else accountOf s b := by
  have h := accountOf_issueRequest s r a false b
  rwa [Bool.not_false, Bool.and_true] at h

/-- With no head offered, settling is the re-evaluation of the pool (R80). -/
theorem settle_of_no_head (hn : s.hostPort.head = none) : settle s = reevaluatePool .change s :=
  judgeHead_of_no_head (by rw [reevaluatePool_hostPort, hn])

/-- What an issue moves of an account, settling leaves (R82). -/
theorem settle_account (s : State) (b : AccountIndex) :
    (accountOf (settle s) b).balance = (accountOf s b).balance ∧
      (accountOf (settle s) b).outstanding = (accountOf s b).outstanding ∧
      (accountOf (settle s) b).counters.issuedRequests = (accountOf s b).counters.issuedRequests ∧
      (accountOf (settle s) b).counters.issuedBeats = (accountOf s b).counters.issuedBeats ∧
      (accountOf (settle s) b).counters.overdrawCredits = (accountOf s b).counters.overdrawCredits := by
  obtain ⟨hbalance, hout⟩ := settle_balance s b
  have hcounters := settle_issueCounters s b
  simp only [issueCounters, Prod.mk.injEq] at hcounters
  exact ⟨hbalance, hout, hcounters⟩

/-- A charge takes the cost, or what the balance holds of it (R6, R7). -/
theorem chargeAccount_balance (enforced : Bool) (c : Nat) (acc : Account) :
    (chargeAccount enforced c acc).balance = acc.balance - c := by
  cases enforced with
  | false =>
    change acc.balance - min c acc.balance = acc.balance - c
    omega
  | true => rfl

/-- A metered charge alone counts overdraw credits (R7). -/
theorem chargeAccount_overdraw (enforced : Bool) (c : Nat) (acc : Account) :
    (chargeAccount enforced c acc).counters.overdrawCredits =
      if enforced = true then acc.counters.overdrawCredits
      else min (acc.counters.overdrawCredits + (c - acc.balance)) 4294967295 := by
  cases enforced <;> rfl

theorem chargeAccount_issued (enforced : Bool) (c : Nat) (acc : Account) :
    (chargeAccount enforced c acc).counters.issuedRequests = acc.counters.issuedRequests ∧
      (chargeAccount enforced c acc).counters.issuedBeats = acc.counters.issuedBeats := by
  cases enforced <;> exact ⟨rfl, rfl⟩

/-- Settles O27: the issue charges and counts the head's account, and settling the pool afterwards keeps that. -/
theorem mPortIssuesThePickedHeadOrLapses : Obligations.MPortIssuesThePickedHeadOrLapses := by
  intro s hr
  refine ⟨fun r a hroom hp => ?_, exec_mPortReady_of_lapse⟩
  intro price
  have hother : ∀ b, b ≠ a → accountOf (headIssued r a s) b = accountOf s b := fun b hb => by
    rw [accountOf_headIssued, if_neg hb.symm]
  have hown : accountOf (headIssued r a s) a =
      countIssue r.len (chargeAccount (restrained s a) price (accountOf s a)) := by
    rw [accountOf_headIssued, if_pos rfl]
  obtain ⟨hbalance, hout, hrequests, hbeats, hoverdraw⟩ := settle_account (headIssued r a s) a
  obtain ⟨hissued, hissuedBeats⟩ := chargeAccount_issued (restrained s a) price (accountOf s a)
  rw [hown] at hbalance hout hrequests hbeats hoverdraw
  refine ⟨_, exec_mPortReady_of_head hr hroom hp, ?_, ?_, ?_, fun b hb => ?_, ?_, ?_, ?_, ?_, ?_, ?_, ?_⟩
  · exact settle_memPort _
  · rw [settle_of_no_head rfl]
    exact reevaluatePool_hostPort _ _
  · exact settle_outstanding _
  · have hkept := settle_account (headIssued r a s) b
    rwa [hother b hb] at hkept
  · exact hout.trans (congrArg (· + 1) (chargeAccount_outstanding ..))
  · exact hbalance.trans (chargeAccount_balance ..)
  · exact hoverdraw.trans (chargeAccount_overdraw ..)
  · exact hrequests.trans (congrArg (bump · 1) hissued)
  · exact hbeats.trans (congrArg (bump · r.len) hissuedBeats)
  · exact settle_poolSlots rfl
  · apply State.eq_of_fields <;> simp [headIssued]

end Sys2Proof.Machine

/-! SUPPORT. The judgment of the pool: what its inputs are, what it refuses, and that it leaves the pool settled, which every step
keeps (R79, R80, R82, R83). -/

namespace Sys2Proof.Machine

open Sys2Proof.Safety

-- One declaration at a time: elaborated side by side, the text outgrows the memory of the check.
set_option Elab.async false

variable {s t : State}

/-! ### The inputs of the admission test -/

/-- Two states that agree in everything the admission test and the credit refusal of a record read (R63, R64, R83). -/
structure SameTest (s t : State) : Prop where
  reg : t.reg = s.reg := by rfl
  live : t.store.live = s.store.live := by rfl
  balance : ∀ a, (accountOf t a).balance = (accountOf s a).balance := by exact fun _ => rfl
  issued : ∀ a, (accountOf t a).outstanding = (accountOf s a).outstanding := by exact fun _ => rfl

theorem SameAdmission.sameTest (h : SameAdmission s t) : SameTest s t := ⟨h.reg, h.live, h.balance, h.issued⟩

/-- Neither test reads the pool or the Outstanding Table. -/
theorem SameTest.sameAdmission (h : SameTest s t) :
    SameAdmission s { t with pool := s.pool, outstanding := s.outstanding } :=
  { reg := h.reg, live := h.live, balance := h.balance, issued := h.issued }

theorem SameTest.liveParams (h : SameTest s t) (a : AccountIndex) : liveParams t a = liveParams s a :=
  h.sameAdmission.liveParams a

theorem SameTest.admissionTest (h : SameTest s t) (a : AccountIndex) (exempt : Bool) (r : Request)
    (older : List HeldRecord) : admissionTest t a exempt r older = admissionTest s a exempt r older :=
  h.sameAdmission.admissionTest a exempt r older

theorem SameTest.creditRefused (h : SameTest s t) (g : HeldRecord) (b : Blocker) :
    creditRefused t g b = creditRefused s g b := by
  unfold Machine.creditRefused
  rw [h.liveParams, regulationActive_congr h.reg]

/-- A re-evaluation leaves the inputs of the tests (R82). -/
theorem sameTest_reevaluatePool (o : Occasion) (s : State) : SameTest s (reevaluatePool o s) where
  reg := reevaluatePool_reg s o
  live := congrArg ConfigStore.live (reevaluatePool_store s o)
  balance := fun a => (reevaluatePool_balance s o a).1
  issued := fun a => (reevaluatePool_balance s o a).2

/-- The judgment of the head leaves the inputs of the tests (R67, R68). -/
theorem sameTest_judgeHead (s : State) : SameTest s (judgeHead s) where
  reg := judgeHead_reg s
  live := congrArg ConfigStore.live (judgeHead_store s)
  balance := fun a => (judgeHead_balance s a).1
  issued := fun a => (judgeHead_balance s a).2

theorem SameTest.trans {u : State} (h : SameTest s t) (h' : SameTest t u) : SameTest s u :=
  ⟨h'.reg.trans h.reg, h'.live.trans h.live, fun a => (h'.balance a).trans (h.balance a),
    fun a => (h'.issued a).trans (h.issued a)⟩

/-! ### HELD and REFUSING records of a list of entries -/

@[simp] theorem heldRecords_nil : heldRecords [] = [] := rfl

@[simp] theorem heldRecords_cons_held (i : SlotIndex) (h : HeldRecord) (es : List PoolEntry) :
    heldRecords (⟨i, .held h⟩ :: es) = h :: heldRecords es := rfl

@[simp] theorem heldRecords_cons_refusing (i : SlotIndex) (r : RefusingRecord) (es : List PoolEntry) :
    heldRecords (⟨i, .refusing r⟩ :: es) = heldRecords es := rfl

@[simp] theorem refusingRecords_cons_held (i : SlotIndex) (h : HeldRecord) (es : List PoolEntry) :
    refusingRecords (⟨i, .held h⟩ :: es) = refusingRecords es := rfl

@[simp] theorem refusingRecords_cons_refusing (i : SlotIndex) (r : RefusingRecord) (es : List PoolEntry) :
    refusingRecords (⟨i, .refusing r⟩ :: es) = r :: refusingRecords es := rfl

theorem mem_heldRecords {es : List PoolEntry} {h : HeldRecord} :
    h ∈ heldRecords es ↔ ∃ i, (⟨i, .held h⟩ : PoolEntry) ∈ es := by
  induction es with
  | nil => simp
  | cons e rest ih => obtain ⟨j, g | r⟩ := e <;> simp [ih, exists_or]

/-! ### Settled lists of entries -/

section
variable (s) (older : List HeldRecord)

@[simp] theorem blockersCurrent_nil : blockersCurrent s older [] = true := rfl

@[simp] theorem blockersCurrent_cons_refusing (i : SlotIndex) (r : RefusingRecord) (es : List PoolEntry) :
    blockersCurrent s older (⟨i, .refusing r⟩ :: es) = blockersCurrent s older es := rfl

theorem blockersCurrent_cons_held (i : SlotIndex) (h : HeldRecord) (es : List PoolEntry) :
    blockersCurrent s older (⟨i, .held h⟩ :: es) = true ↔
      h.blocker = admissionTest s h.account h.exempt h.req older ∧ creditRefused s h h.blocker = false ∧
        blockersCurrent s (older ++ [h]) es = true := by
  simp [blockersCurrent, and_assoc]

/-- Entries placed behind others are judged against the HELD records of those too (R79). -/
theorem blockersCurrent_append (es fs : List PoolEntry) :
    blockersCurrent s older (es ++ fs) =
      (blockersCurrent s older es && blockersCurrent s (older ++ heldRecords es) fs) := by
  induction es generalizing older with
  | nil => simp
  | cons e rest ih =>
    obtain ⟨i, h | r⟩ := e
    · simp [blockersCurrent, ih, Bool.and_assoc]
    · simp [ih]

end

theorem SameTest.blockersCurrent (h : SameTest s t) (older : List HeldRecord) (es : List PoolEntry) :
    blockersCurrent t older es = blockersCurrent s older es := by
  induction es generalizing older with
  | nil => rfl
  | cons e rest ih =>
    obtain ⟨i, g | r⟩ := e
    · simp only [Safety.blockersCurrent, h.admissionTest, h.creditRefused, ih]
    · exact ih older

/-- A judgment that keeps a record has not found a credit refusal due, and gives it the result of the test (R80, R83). -/
theorem judge_keep {o : Occasion} {h : HeldRecord} {older : List HeldRecord} {b : Blocker}
    (hj : judge s o h older = .keep b) :
    b = admissionTest s h.account h.exempt h.req older ∧ creditRefused s h b = false := by
  unfold judge at hj
  dsimp only at hj
  split at hj
  · simp at hj
  · split at hj
    · simp at hj
    next hcredit =>
      split at hj
      · simp at hj
      · obtain rfl := Verdict.keep.inj hj
        exact ⟨rfl, by simpa using hcredit⟩

/-- What a judgment leaves is settled (R79, R80, R83). -/
theorem blockersCurrent_judgePool (s : State) (o : Occasion) (older : List HeldRecord) (es : List PoolEntry) :
    blockersCurrent s older (judgePool s o older es).1 = true := by
  induction es generalizing older with
  | nil => rfl
  | cons e rest ih =>
    obtain ⟨i, h | r⟩ := e
    · unfold judgePool
      dsimp only
      split
      next b hj =>
        obtain ⟨hb, hcredit⟩ := judge_keep hj
        exact (blockersCurrent_cons_held ..).mpr ⟨hb, hcredit, ih _⟩
      next => exact ih older
    · exact ih older

theorem poolSettled_reevaluatePool (o : Occasion) (s : State) : PoolSettled (reevaluatePool o s) := by
  unfold PoolSettled
  rw [(sameTest_reevaluatePool o s).blockersCurrent, reevaluatePool_pool]
  exact blockersCurrent_judgePool s o [] s.pool

/-- What leaves the pool and the inputs of the tests leaves the pool settled. -/
theorem poolSettled_of_same (hs : PoolSettled s) (h : SameTest s t) (hp : t.pool = s.pool) : PoolSettled t := by
  unfold PoolSettled
  rwa [h.blockersCurrent, hp]

/-- A record placed behind a settled pool has to show its own blocker alone (R75, R79). -/
theorem poolSettled_place {e : PoolEntry} (hs : PoolSettled s) (h : SameTest s t) (hp : t.pool = s.pool ++ [e])
    (he : blockersCurrent s (heldRecords s.pool) [e] = true) : PoolSettled t := by
  unfold PoolSettled
  rw [h.blockersCurrent, hp, blockersCurrent_append, hs, List.nil_append, he]
  rfl

/-! ### The dispositions ISSUE and HOLD -/

/-- A disposition that names an account is that of the blocker found for the account (R53, R65). -/
theorem disposition_eq_of_account {r : Request} {a : AccountIndex}
    (hd : disposition s r = .issue a ∨ ∃ b, disposition s r = .hold a b) :
    ∃ a', disposition s r = dispositionOf s a' (admissionTest s a' false r (heldRecords s.pool)) := by
  cases hm : malformed r with
  | true => rw [disposition_of_malformed hm] at hd; simp at hd
  | false =>
    cases hc : tagConflict s r with
    | true => rw [disposition_of_tagConflict hm hc] at hd; simp at hd
    | false =>
      cases ha : classify s.store.live r with
      | none => rw [disposition_of_unmapped hm hc ha] at hd; simp at hd
      | some a' => exact ⟨a', disposition_of_account hm hc ha⟩

theorem dispositionOf_eq_issue {a x : AccountIndex} {b : Blocker} (h : dispositionOf s a b = .issue x) :
    x = a ∧ b = .none := by
  by_cases hb : b = .none
  · subst hb
    exact ⟨(Disposition.issue.inj h).symm, rfl⟩
  · by_cases hrefuse : b = .credit ∧ (liveParams s a).mode = .refuse
    · obtain ⟨rfl, hmode⟩ := hrefuse
      simp [dispositionOf, hmode] at h
    · rw [dispositionOf_hold hb hrefuse] at h
      exact Disposition.noConfusion h

theorem dispositionOf_eq_hold {a x : AccountIndex} {b y : Blocker} (h : dispositionOf s a b = .hold x y) :
    x = a ∧ y = b ∧ ¬((liveParams s a).mode = .refuse ∧ b = .credit) := by
  by_cases hrefuse : b = .credit ∧ (liveParams s a).mode = .refuse
  · obtain ⟨rfl, hmode⟩ := hrefuse
    simp [dispositionOf, hmode] at h
  · by_cases hb : b = .none
    · subst hb
      exact Disposition.noConfusion h
    · rw [dispositionOf_hold hb hrefuse] at h
      obtain ⟨rfl, rfl⟩ := Disposition.hold.inj h
      exact ⟨rfl, rfl, fun hc => hrefuse hc.symm⟩

/-- A head to be issued has no blocker (R66). -/
theorem admissionTest_of_issue {r : Request} {a : AccountIndex} (hd : disposition s r = .issue a) :
    admissionTest s a false r (heldRecords s.pool) = .none := by
  obtain ⟨a', ha⟩ := disposition_eq_of_account (.inl hd)
  obtain ⟨rfl, hb⟩ := dispositionOf_eq_issue (ha.symm.trans hd)
  exact hb

/-- A head to be held shows the blocker that the test finds, and no credit refusal is due (R65, R67). -/
theorem blocker_of_hold {r : Request} {a : AccountIndex} {b : Blocker} (hd : disposition s r = .hold a b) :
    b = admissionTest s a false r (heldRecords s.pool) ∧ ¬((liveParams s a).mode = .refuse ∧ b = .credit) := by
  obtain ⟨a', ha⟩ := disposition_eq_of_account (.inr ⟨b, hd⟩)
  obtain ⟨rfl, rfl, hrefuse⟩ := dispositionOf_eq_hold (ha.symm.trans hd)
  exact ⟨rfl, hrefuse⟩

/-! ### What the judgment of the head does to the pool -/

/-- The taking of a head as HELD leaves the pool settled (R67, R79). -/
theorem poolSettled_takeHeld {r : Request} {a : AccountIndex} {b : Blocker} (i : SlotIndex) (hs : PoolSettled s)
    (hd : disposition s r = .hold a b) : PoolSettled (takeHeld r a b i s) := by
  obtain ⟨hb, hrefuse⟩ := blocker_of_hold hd
  refine poolSettled_place hs
    { reg := takeHeld_reg ..
      live := congrArg ConfigStore.live (takeHeld_store ..)
      balance := fun x => by rw [accountOf_takeHeld]; split <;> rfl
      issued := fun x => by rw [accountOf_takeHeld]; split <;> rfl } (takeHeld_pool ..) ?_
  refine (blockersCurrent_cons_held ..).mpr ⟨hb, ?_, rfl⟩
  simp only [creditRefused, Bool.and_eq_false_iff, beq_eq_false_iff_ne]
  by_cases hc : b = .credit
  · exact .inl (.inl (.inl fun hmode => hrefuse ⟨hmode, hc⟩))
  · exact .inr hc

/-- A REFUSING record placed behind the pool has no blocker to show (R68, R77). -/
theorem poolSettled_takeRefusing (r : Request) (c : Cause) (a : Option AccountIndex) (i : SlotIndex)
    (hs : PoolSettled s) : PoolSettled (takeRefusing r c a i s) :=
  poolSettled_place hs
    { reg := takeRefusing_reg ..
      live := congrArg ConfigStore.live (takeRefusing_store ..)
      balance := fun x => by rw [accountOf_takeRefusing]; split <;> simp
      issued := fun x => by rw [accountOf_takeRefusing]; split <;> simp } (takeRefusing_pool ..) rfl

/-- What the judgment of the head can end in (R53, R57, R67 to R69): the head is taken into a slot, or waits. -/
inductive HeadJudgment (s : State) : State → Prop
  | waits : HeadJudgment s s
  | tagWait (h : Head) : HeadJudgment s (enterTagWait h s)
  | slotWait (h : Head) : HeadJudgment s (enterSlotWait h s)
  | held (h : Head) (a : AccountIndex) (b : Blocker) (i : SlotIndex) (head : s.hostPort.head = some h)
      (hd : disposition s h.req = .hold a b) : HeadJudgment s (takeHeld h.req a b i s)
  | refusing (h : Head) (c : Cause) (a : Option AccountIndex) (i : SlotIndex) (head : s.hostPort.head = some h)
      (hd : disposition s h.req = .refuse c a) : HeadJudgment s (takeRefusing h.req c a i s)

theorem headJudgment (s : State) : HeadJudgment s (judgeHead s) := by
  unfold judgeHead
  split
  · exact .waits
  next h head =>
    split
    · exact .tagWait h
    · split
      · exact .waits
      · exact .waits
      next a b hd =>
        split
        next i _ => exact .held h a b i head hd
        next => exact .slotWait h
      next c a hd =>
        split
        next i _ => exact .refusing h c a i head hd
        next => exact .slotWait h

/-- The judgment of the head leaves a settled pool settled (R53, R79). -/
theorem HeadJudgment.poolSettled (hj : HeadJudgment s t) (same : SameTest s t) (hs : PoolSettled s) : PoolSettled t := by
  cases hj with
  | waits => exact hs
  | tagWait h => exact poolSettled_of_same hs same (enterTagWait_pool s h)
  | slotWait h => exact poolSettled_of_same hs same (enterSlotWait_pool s h)
  | held h a b i _ hd => exact poolSettled_takeHeld i hs hd
  | refusing h c a i => exact poolSettled_takeRefusing _ _ _ _ hs

theorem poolSettled_judgeHead (hs : PoolSettled s) : PoolSettled (judgeHead s) :=
  (headJudgment s).poolSettled (sameTest_judgeHead s) hs

theorem poolSettled_judged (o : Occasion) (s : State) : PoolSettled (judgeHead (reevaluatePool o s)) :=
  poolSettled_judgeHead (poolSettled_reevaluatePool o s)

theorem poolSettled_settle (s : State) : PoolSettled (settle s) := poolSettled_judged .change s

/-! ### The pool before and while the part runs -/

/-- The pool is empty before the part runs, with the Outstanding Table, and settled (R98, R118, R79, R83). -/
structure PoolSound (s : State) : Prop where
  empty : EmptyBeforeRunning s
  settled : PoolSettled s

/-- While the part runs, a settled pool is sound. -/
theorem PoolSound.of_running (hr : Running t) (h : PoolSettled t) : PoolSound t := ⟨fun hn => absurd hr hn, h⟩

/-- With nothing held, pool and table are sound in every phase. -/
theorem PoolSound.of_empty (hp : t.pool = []) (ho : t.outstanding = []) : PoolSound t :=
  ⟨fun _ => ⟨hp, ho⟩, by unfold PoolSettled; rw [hp]; rfl⟩

/-- What leaves the phase, the pool, the table and the inputs of the tests leaves the pool sound. -/
theorem PoolSound.of_same (hs : PoolSound s) (h : SameAdmission s t := by exact {})
    (hp : t.power.phase = s.power.phase := by rfl) : PoolSound t where
  empty := by
    unfold EmptyBeforeRunning
    rw [hp, h.pool, h.outstanding]
    exact hs.empty
  settled := poolSettled_of_same hs.settled h.sameTest h.pool

theorem running_of_portsOpen (h : portsOpen s = true) : Running s := by simpa [portsOpen] using h

/-! ### The traffic path -/

theorem poolSound_offerHead (r : Request) (hs : PoolSound s) : PoolSound (offerHead r s) := by
  have offered : PoolSound (withOffered r s) := hs.of_same
  unfold offerHead
  split
  · exact hs
  · dsimp only
    split
    next hopen =>
      refine .of_running ?_ (poolSettled_judgeHead offered.settled)
      exact (congrArg Power.phase (judgeHead_power _)).trans (running_of_portsOpen (s := s) hopen)
    · exact offered

theorem poolSound_takeHeldEvent (hs : PoolSound s) : PoolSound (takeHeldEvent s) := by
  unfold takeHeldEvent
  split
  next hopen =>
    split
    · exact hs
    · split
      next i hd _ =>
        refine .of_running ?_ (poolSettled_takeHeld i hs.settled hd)
        rw [Running, takeHeld_power]
        exact running_of_portsOpen hopen
      all_goals exact hs
  · exact hs

theorem poolSound_takeRefusingEvent (hs : PoolSound s) : PoolSound (takeRefusingEvent s) := by
  unfold takeRefusingEvent
  split
  next hopen =>
    split
    · exact hs
    · split
      · exact hs
      · split
        next =>
          refine .of_running ?_ (poolSettled_takeRefusing _ _ _ _ hs.settled)
          rw [Running, takeRefusing_power]
          exact running_of_portsOpen hopen
        all_goals exact hs
  · exact hs

/-- What ends in a settling while the part runs leaves the pool sound. -/
theorem poolSound_settle (hr : Running t) : PoolSound (settle t) :=
  .of_running (by rwa [Running, settle_power]) (poolSettled_settle t)

theorem poolSound_mPortReady (hs : PoolSound s) : PoolSound (mPortReady s) := by
  unfold mPortReady
  split
  next hopen =>
    have hr : Running s := running_of_portsOpen (Bool.and_eq_true_iff.mp hopen).1
    split
    next c _ => cases c <;> exact poolSound_settle hr
    · exact hs
  · exact hs

theorem poolSound_matchResponse (hs : PoolSound s) : PoolSound (matchResponse s) := by
  unfold matchResponse
  repeat' split
  all_goals exact hs.of_same

theorem poolSound_offerResponse (r : MemoryResponse) (hs : PoolSound s) : PoolSound (offerResponse r s) := by
  unfold offerResponse
  split
  · exact hs
  · dsimp only
    split
    · exact poolSound_matchResponse hs.of_same
    · exact hs.of_same

/-- The REFUSING record that leaves the pool leaves every HELD record with the same ones ahead of it (R97, R79). -/
theorem poolSettled_removeSlot {i : SlotIndex} {r : RefusingRecord} (hd : SlotsDistinct s) (hs : PoolSettled s)
    (hm : ⟨i, .refusing r⟩ ∈ s.pool) : PoolSettled (removeSlot i s) := by
  obtain ⟨front, back, hp, hf⟩ := pool_split hd hm
  have same : SameTest s (removeSlot i s) := {}
  unfold PoolSettled at *
  rw [same.blockersCurrent, removeSlot_pool, hf]
  rw [hp] at hs
  simpa [blockersCurrent_append] using hs

theorem poolSound_deliverRefusal {i : SlotIndex} {r : RefusingRecord} (hr : Running s) (hd : SlotsDistinct s)
    (hs : PoolSound s) (h : oldestRefusing s.pool = some (i, r)) : PoolSound (deliverRefusal i r s) := by
  obtain ⟨front, back, hp, -⟩ := oldestRefusing_split h
  have freed := poolSettled_removeSlot hd hs.settled (i := i) (r := r) (by rw [hp]; simp)
  unfold deliverRefusal
  refine .of_running ?_ (poolSettled_judgeHead (poolSettled_of_same freed {} rfl))
  rw [Running, judgeHead_power]
  exact hr

theorem poolSound_hPortReady (hd : SlotsDistinct s) (hs : PoolSound s) : PoolSound (hPortReady s) := by
  unfold hPortReady
  split
  next hopen =>
    have hr := running_of_portsOpen hopen
    have response : ∀ r, PoolSound (deliverMemoryResponse r s) := fun r => by
      rw [deliverMemoryResponse_eq]
      refine poolSound_settle ?_
      unfold responseTaken
      dsimp only
      split <;> exact hr
    split
    · exact hs
    · exact response _
    next h => exact poolSound_deliverRefusal hr hd hs h
    next h =>
      split
      · exact response _
      · exact poolSound_deliverRefusal hr hd hs h
  · exact hs

/-! ### The grid -/

theorem poolSound_sliceBoundaryEvent (hr : Running s) : PoolSound (sliceBoundaryEvent s) := by
  refine .of_running ?_ (poolSettled_judged .boundary _)
  unfold sliceBoundaryEvent
  rw [Running, judgeHead_power, reevaluatePool_power, beforeExpiry_power]
  exact hr

theorem poolSound_tickEvent (hr : Running s) (hs : PoolSound s) : PoolSound (tickEvent s) := by
  unfold tickEvent
  split
  · exact hs.of_same
  · exact poolSound_sliceBoundaryEvent hr

theorem poolSound_gridCycle (hr : Running s) (hs : PoolSound s) : PoolSound (gridCycle s) := by
  unfold gridCycle
  split
  · exact hs.of_same
  · exact poolSound_tickEvent (s := pastRestart s) hr hs.of_same

theorem poolSound_atTick {bring : State → State}
    (hb : ∀ s, bring s = tickEvent s ∨ bring s = sliceBoundaryEvent s ∨ bring s = s) (hs : PoolSound s) :
    PoolSound (atTick bring s) := by
  unfold atTick
  split
  next hclock =>
    have hr : Running s := running_of_portsOpen (Bool.and_eq_true_iff.mp hclock).1
    split
    · exact hs.of_same
    · rcases hb s with h | h | h
      · exact h ▸ poolSound_tickEvent hr hs
      · exact h ▸ poolSound_sliceBoundaryEvent hr
      · exact h.symm ▸ hs
  · exact hs

/-! ### The Command Executor and the link -/

/-- A command that changes an input of the admission test settles the pool; the others leave pool and inputs (R80, R89, R90). -/
theorem poolSettled_perform (c : Command) (p : List Byte) (hs : PoolSettled s) : PoolSettled (perform c p s).1 := by
  cases c with
  | identify | readAccount | readMap | readGlobals | readHold => exact hs
  | writeAccount | writeMap | writeGlobals | copyLiveToStaged | cancelCommit | ackAlert | setAlertEnable | clearCapture =>
    exact poolSettled_of_same hs {} rfl
  | status | commit | readCapture =>
    simp only [perform, performStatus, performCommit, performReadCapture]
    split <;> exact poolSettled_of_same hs {} rfl
  | readCounters =>
    unfold perform performReadCounters
    dsimp only
    split
    · exact poolSettled_of_same hs
        { balance := updateAccount_keeps s Account.balance (f := clearCounters) (fun _ => rfl) _
          issued := updateAccount_keeps s Account.outstanding (f := clearCounters) (fun _ => rfl) _ } rfl
    · exact hs
  | flush =>
    unfold perform performFlush
    dsimp only
    split
    · exact poolSettled_judged _ s
    · exact poolSettled_settle _
  | setMode => exact poolSettled_settle _

theorem perform_power (c : Command) (p : List Byte) (s : State) : (perform c p s).1.power = s.power := by
  cases c with
  | flush =>
    unfold perform performFlush
    dsimp only
    split <;> simp
  | setMode => exact settle_power _
  | status | commit | readCapture | readCounters =>
    simp only [perform, performStatus, performCommit, performReadCapture, performReadCounters]
    split <;> rfl
  | identify | readAccount | readMap | readGlobals | readHold => rfl
  | writeAccount | writeMap | writeGlobals | copyLiveToStaged | cancelCommit | ackAlert | setAlertEnable | clearCapture =>
    rfl

/-- Link work of a part that runs leaves it running, with a settled pool. -/
theorem LinkWorks.poolSound (h : LinkWorks s t) (hr : Running s) (hs : PoolSound s) : PoolSound t := by
  have ⟨hrun, hsettled⟩ := h.keeps (P := fun u => Running u ∧ PoolSettled u)
    (fun _ _ _ hu => ⟨hu.1, poolSettled_of_same hu.2 {} rfl⟩)
    (fun c p hu => ⟨by rw [Running, perform_power]; exact hu.1, poolSettled_perform c p hu.2⟩) ⟨hr, hs.settled⟩
  exact .of_running hrun hsettled

/-- An event of the link leaves the pool sound: it is link work, and nothing before the part runs (R159). -/
theorem poolSound_linkEvent (h : LinkWorks s t) (hidle : ¬Running s → t = s) (hs : PoolSound s) : PoolSound t := by
  by_cases hr : Running s
  · exact h.poolSound hr hs
  · rwa [hidle hr]

theorem linkListens_of_not_running (h : ¬Running s) : linkListens s = false := by
  unfold linkListens
  rw [Bool.eq_false_iff.mpr (mt running_of_portsOpen h)]
  rfl

theorem clockRuns_of_not_running (h : ¬Running s) : clockRuns s = false :=
  clockRuns_of_not_clockRunning fun hc => h hc.1

theorem poolSound_refclkCycle (hs : PoolSound s) : PoolSound (refclkCycle s) := by
  unfold refclkCycle
  split
  next hclock =>
    have hr : Running s := running_of_portsOpen (Bool.and_eq_true_iff.mp hclock).1
    have hpower : (linkCycle s).power = s.power :=
      (linkWorks_linkCycle s).keeps (P := fun u => u.power = s.power) (fun _ _ _ hu => hu)
        (fun c p hu => (perform_power c p _).trans hu) rfl
    refine poolSound_gridCycle ?_ ((linkWorks_linkCycle s).poolSound hr hs)
    rw [Running, hpower]
    exact hr
  · exact hs

/-! ### Power and REFCLK -/

theorem poolSound_refclkStopEvent (hs : PoolSound s) : PoolSound (refclkStopEvent s) := by
  unfold refclkStopEvent
  dsimp only
  repeat' split
  all_goals exact hs.of_same

theorem poolSound_refclkResumeEvent (hs : PoolSound s) : PoolSound (refclkResumeEvent s) := by
  unfold refclkResumeEvent
  dsimp only
  repeat' split
  all_goals exact hs.of_same

theorem poolSound_powerOnResetEvent (change : ResetChange) (hs : PoolSound s) :
    PoolSound (powerOnResetEvent change s) := by
  unfold powerOnResetEvent
  split
  next src =>
    split
    · cases src <;> exact hs.of_same
    · exact .of_empty rfl rfl
  next src => cases src <;> exact hs.of_same

theorem poolSound_initialisationEvent (stn : BitVec 5) (rate : BitVec 2) (hs : PoolSound s) :
    PoolSound (initialisationEvent stn rate s) := by
  unfold initialisationEvent
  split
  next hreset =>
    obtain ⟨hphase, -⟩ : s.power.phase = .inReset ∧ resetInForce s = false := by simpa using hreset
    obtain ⟨hp, ho⟩ := hs.empty (by rw [hphase]; decide)
    exact .of_empty hp ho
  · exact hs

/-- The pool that the initialisation complete event finds is empty, so that the head it judges is the first record (R140,
R98). -/
theorem poolSound_initialisationCompleteEvent (high : Bool) (hs : PoolSound s) :
    PoolSound (initialisationCompleteEvent high s) := by
  unfold initialisationCompleteEvent
  split
  next hready =>
    obtain ⟨hphase, -⟩ : s.power.phase = .initialising ∧ s.power.refclk = true := by simpa using hready
    obtain ⟨hp, ho⟩ := hs.empty (by rw [hphase]; decide)
    have begun := poolSound_matchResponse (PoolSound.of_empty (t := { s with
        power := { s.power with phase := .running }
        reg := { s.reg with regenHigh := high }
        time := { cycle := 0, tick := 0, slice := 0, period := 0 } }) hp ho)
    refine .of_running ?_ (poolSettled_judgeHead begun.settled)
    rw [Running, judgeHead_power]
    unfold matchResponse
    repeat' split
    all_goals rfl
  · exact hs

/-! ### Every command, every step -/

theorem exec_poolSound (c : Instr) (hd : SlotsDistinct s) (hs : PoolSound s) :
    ∃ t, exec c s = .next t ∧ PoolSound t := by
  by_cases hrow : c ∈ tickRows
  · obtain ⟨bring, hexec, hb⟩ := exec_of_mem_tickRows hrow
    exact ⟨_, hexec s, poolSound_atTick hb hs⟩
  have linkEvent : ∀ {t}, exec c s = .next t → LinkWorks s t → (¬Running s → t = s) →
      ∃ t, exec c s = .next t ∧ PoolSound t :=
    fun he h hidle => ⟨_, he, poolSound_linkEvent h hidle hs⟩
  cases c with
  | tick | sliceBoundary | periodBoundary | expiry | publication => exact absurd (by decide) hrow
  | offer r => exact ⟨_, rfl, poolSound_offerHead r hs⟩
  | takeHeld => exact ⟨_, rfl, poolSound_takeHeldEvent hs⟩
  | takeRefusing => exact ⟨_, rfl, poolSound_takeRefusingEvent hs⟩
  | mPortReadyEvent => exact ⟨_, rfl, poolSound_mPortReady hs⟩
  | memoryResponse r => exact ⟨_, rfl, poolSound_offerResponse r hs⟩
  | hPortReadyEvent => exact ⟨_, rfl, poolSound_hPortReady hd hs⟩
  | regulationRestart =>
    refine ⟨_, rfl, ?_⟩
    split
    next hopen =>
      refine poolSound_settle (t := restartFilled s) ?_
      rw [Running, restartFilled_power]
      exact running_of_portsOpen (Bool.and_eq_true_iff.mp hopen).1
    · exact hs
  | regenFall =>
    refine ⟨_, rfl, ?_⟩
    split
    next hopen =>
      exact poolSound_settle (running_of_portsOpen (s := s) (Bool.and_eq_true_iff.mp hopen).1)
    · exact hs
  | powerOnReset change => exact ⟨_, rfl, poolSound_powerOnResetEvent change hs⟩
  | initialisation stn rate => exact ⟨_, rfl, poolSound_initialisationEvent stn rate hs⟩
  | initialisationComplete high => exact ⟨_, rfl, poolSound_initialisationCompleteEvent high hs⟩
  | refclkStop => exact ⟨_, rfl, poolSound_refclkStopEvent hs⟩
  | refclkResume => exact ⟨_, rfl, poolSound_refclkResumeEvent hs⟩
  | selectCharacter value =>
    exact linkEvent rfl (linkWorks_selectEvent value s) fun hn => by simp [selectEvent, linkListens_of_not_running hn]
  | dataCharacter value =>
    exact linkEvent rfl (linkWorks_dataEvent value s) fun hn => by simp [dataEvent, linkListens_of_not_running hn]
  | framingError =>
    exact linkEvent rfl (linkWorks_framingErrorEvent s) fun hn => by
      simp [framingErrorEvent, linkListens_of_not_running hn]
  | frameTimeout =>
    exact linkEvent rfl (linkWorks_frameTimeoutEvent s) fun hn => by
      simp [frameTimeoutEvent, linkListens_of_not_running hn]
  | linkBreak =>
    exact linkEvent rfl (linkWorks_breakEvent s) fun hn => by simp [breakEvent, linkListens_of_not_running hn]
  | responseTurnaround =>
    exact linkEvent rfl (linkWorks_turnaroundEvent s) fun hn => by simp [turnaroundEvent, clockRuns_of_not_running hn]
  | responseEnd =>
    exact linkEvent rfl (linkWorks_responseEndEvent s) fun hn => by simp [responseEndEvent, clockRuns_of_not_running hn]
  | endOfBreak =>
    exact linkEvent rfl (linkWorks_endOfBreakEvent s) fun hn => if_neg (mt running_of_portsOpen hn)
  | unknownCommand | identify | statusKeep | statusClear | readAccount | writeAccount | readMap | writeMap
  | readGlobals | writeGlobals | copyLiveToStaged | commit | cancelCommit | readCountersKeep | readCountersClear
  | readHold | flushRelease | flushRefuse | readCapture | clearCapture | setMode | ackAlert | setAlertEnable =>
    exact linkEvent rfl (linkWorks_receiveFrame _ _ s) fun hn =>
      receiveFrame_notListening (linkListens_of_not_running hn) _ _

theorem step_poolSound (hstep : step s = .next t) (hd : SlotsDistinct s) (hs : PoolSound s) : PoolSound t := by
  cases hp : s.pending with
  | nil =>
    obtain rfl := Host.Outcome.next.inj ((step_idle hp).symm.trans hstep)
    exact poolSound_refclkCycle hs
  | cons c rest =>
    have hfront : PoolSound { s with pending := rest } := hs.of_same
    obtain ⟨u, hu, hsound⟩ := exec_poolSound (s := { s with pending := rest }) c hd hfront
    obtain rfl := Host.Outcome.next.inj (hu.symm.trans ((step_of_front hp).symm.trans hstep))
    exact hsound

/-- Settles O55: every event that changes an input of the admission test ends in a judgment of the pool, which gives every HELD
record the result of its test; the others leave the HELD records and the inputs. -/
theorem poolStaysSettled : Obligations.PoolStaysSettled := by
  intro s t ⟨hd, hempty, hsettled⟩ hstep
  obtain ⟨hempty', hsettled'⟩ := step_poolSound hstep hd ⟨hempty, hsettled⟩
  exact ⟨step_keeps Change.slots hstep hd, hempty', hsettled'⟩

end Sys2Proof.Machine

/-! SUPPORT. What a settled pool offers the Issue Arbiter (R81, R101), what the judgment of the head adds to the pool (R67, R68), the
delivery of a refusal (R97, R113), and the restart over the pool (R95). -/

namespace Sys2Proof.Machine

open Sys2Proof.Safety

-- One declaration at a time: elaborated side by side, the text outgrows the memory of the check.
set_option Elab.async false

variable {s t : State}

/-! ### Candidates -/

/-- No blocker is found where no test of the five applies (R59). -/
theorem admissionTest_eq_none_iff {a : AccountIndex} {exempt : Bool} {r : Request} {older : List HeldRecord} :
    admissionTest s a exempt r older = .none ↔
      idOrderApplies r older = false ∧ hazardApplies r older = false ∧ accountOrderApplies a older = false ∧
        capApplies s a exempt = false ∧ creditApplies s a exempt r = false := by
  have first : ∀ (c : Bool) {b x : Blocker}, b ≠ .none → ((if c then b else x) = .none ↔ c = false ∧ x = .none) := by
    intro c b x hb
    cases c <;> simp [hb]
  unfold admissionTest
  rw [first _ (by decide), first _ (by decide), first _ (by decide), first _ (by decide), first _ (by decide)]
  simp

/-- A request without blocker in a restrained account is covered by cap and credit (R63, R64). -/
theorem covered_of_no_blocker {a : AccountIndex} {r : Request} {older : List HeldRecord}
    (h : admissionTest s a false r older = .none) (hr : restrained s a = true) :
    cost (liveParams s a) r ≤ (accountOf s a).balance ∧
      ((liveParams s a).cap = 0 ∨ (accountOf s a).outstanding < (liveParams s a).cap) := by
  obtain ⟨-, -, -, hcap, hcredit⟩ := admissionTest_eq_none_iff.mp h
  rw [Bool.eq_false_iff, ne_eq, capApplies_iff] at hcap
  rw [Bool.eq_false_iff, ne_eq, creditApplies_iff] at hcredit
  refine ⟨Nat.not_lt.mp fun hlt => hcredit ⟨rfl, hr, hlt⟩, ?_⟩
  rw [or_iff_not_imp_left]
  exact fun hzero => Nat.not_le.mp fun hle => hcap ⟨rfl, hr, hzero, hle⟩

/-- A HELD record of a settled list shows the result of its admission test (R79). -/
theorem blocker_of_mem_settled {older : List HeldRecord} {es : List PoolEntry} (hs : blockersCurrent s older es = true)
    {h : HeldRecord} (hm : h ∈ heldRecords es) :
    ∃ ahead, h.blocker = admissionTest s h.account h.exempt h.req ahead := by
  induction es generalizing older with
  | nil => simp at hm
  | cons e rest ih =>
    obtain ⟨i, g | r⟩ := e
    · obtain ⟨hb, -, hrest⟩ := (blockersCurrent_cons_held ..).mp hs
      rcases List.mem_cons.mp hm with rfl | hm
      · exact ⟨older, hb⟩
      · exact ih hrest hm
    · exact ih hs hm

/-- The HELD records of a list that no blocker keeps (R81). -/
def unblocked (es : List PoolEntry) : List HeldRecord := (heldRecords es).filter fun h => h.blocker == .none

/-- The candidates of the pool are its HELD records without blocker (R81, R101). -/
theorem accounts_eligibleHeld (s : State) :
    (eligibleHeld s).map Candidate.account = (unblocked s.pool).map fun h => h.account := by
  unfold eligibleHeld unblocked
  induction s.pool with
  | nil => rfl
  | cons e rest ih =>
    obtain ⟨i, h | r⟩ := e
    · by_cases hb : h.blocker = .none
      · simp [hb, ih, Candidate.account]
      · simp [hb, ih]
    · simpa using ih

/-- Of a settled list, only the oldest HELD record of an account can be without blocker (R62, R81). -/
theorem unblocked_accounts_nodup {older : List HeldRecord} {es : List PoolEntry}
    (hs : blockersCurrent s older es = true) :
    (∀ h ∈ unblocked es, accountOrderApplies h.account older = false) ∧
      ((unblocked es).map fun h => h.account).Nodup := by
  induction es generalizing older with
  | nil => simp [unblocked]
  | cons e rest ih =>
    obtain ⟨i, g | r⟩ := e
    · obtain ⟨hb, -, hrest⟩ := (blockersCurrent_cons_held ..).mp hs
      obtain ⟨hother, hnodup⟩ := ih hrest
      have hahead : ∀ h ∈ unblocked rest, accountOrderApplies h.account older = false ∧ g.account ≠ h.account :=
        fun h hh => by simpa [accountOrderApplies] using hother h hh
      by_cases hg : g.blocker = .none
      · have hcons : unblocked (⟨i, .held g⟩ :: rest) = g :: unblocked rest := by simp [unblocked, hg]
        obtain ⟨-, -, hown, -⟩ := admissionTest_eq_none_iff.mp (hb.symm.trans hg)
        rw [hcons, List.forall_mem_cons, List.map_cons, List.nodup_cons]
        refine ⟨⟨hown, fun h hh => (hahead h hh).1⟩, ?_, hnodup⟩
        simpa using fun h hh hac => (hahead h hh).2 hac.symm
      · have hcons : unblocked (⟨i, .held g⟩ :: rest) = unblocked rest := by simp [unblocked, hg]
        rw [hcons]
        exact ⟨fun h hh => (hahead h hh).1, hnodup⟩
    · exact ih hs

/-- The head is a candidate if its disposition is ISSUE (R101). -/
theorem headCandidate_cases (s : State) :
    headCandidate s = [] ∨ ∃ q a, headCandidate s = [.head q a] ∧ disposition s q = .issue a := by
  unfold headCandidate
  split
  · exact .inl rfl
  next h _ =>
    split
    next a hd => exact .inr ⟨h.req, a, rfl, hd⟩
    all_goals exact .inl rfl

/-- In a settled state no two candidates belong to one account (R62, R101). -/
theorem candidates_accounts_nodup (hs : PoolSettled s) : ((candidates s).map Candidate.account).Nodup := by
  have hpool := (unblocked_accounts_nodup hs).2
  unfold candidates
  rw [List.map_append, accounts_eligibleHeld]
  rcases headCandidate_cases s with hnone | ⟨q, a, hone, hd⟩
  · simpa [hnone] using hpool
  · obtain ⟨-, -, horder, -⟩ := admissionTest_eq_none_iff.mp (admissionTest_of_issue hd)
    have hfresh : ∀ h ∈ unblocked s.pool, h.account ≠ a := by
      intro h hh
      have hm : h ∈ heldRecords s.pool := List.mem_of_mem_filter hh
      simpa [accountOrderApplies] using List.any_eq_false.mp horder h hm
    rw [hone, List.map_singleton, List.nodup_append]
    exact ⟨hpool, List.nodup_singleton _, by simpa [Candidate.account] using hfresh⟩

/-- A candidate of the pool has no blocker (R81, R101). -/
theorem blocker_of_mem_candidates {i : SlotIndex} {h : HeldRecord} (hm : .held i h ∈ candidates s) :
    h.blocker = .none := by
  rcases List.mem_append.mp hm with hm | hm
  · obtain ⟨⟨j, g | r⟩, -, hr⟩ := List.mem_filterMap.mp hm
    · simp only [Option.ite_none_right_eq_some, Option.some.injEq, Candidate.held.injEq] at hr
      obtain ⟨hb, -, rfl⟩ := hr
      exact hb
    · simp at hr
  · rcases headCandidate_cases s with hnone | ⟨q, a, hone, -⟩
    · simp [hnone] at hm
    · simp [hone] at hm

/-- Settles O25: only the oldest HELD record of an account can be without blocker, and a head without blocker has no HELD record of
its account ahead of it. -/
theorem candidatesAreCoveredAndOnePerAccount : Obligations.CandidatesAreCoveredAndOnePerAccount := by
  intro s hs
  have hnodup := candidates_accounts_nodup hs
  refine ⟨hnodup, by simpa using hnodup.length_le_card, fun i h hm hr hx => ?_, fun r a hm hr => ?_⟩
  · obtain ⟨ahead, hb⟩ := blocker_of_mem_settled hs (mem_heldRecords.mpr ⟨i, held_of_mem_candidates hm⟩)
    rw [blocker_of_mem_candidates hm, hx] at hb
    exact covered_of_no_blocker hb.symm hr
  · exact covered_of_no_blocker (admissionTest_of_issue (issue_of_mem_candidates hm)) hr

/-! ### What the judgment of the head adds to the pool -/

/-- The records a judgment of the head can place (R67, R68). -/
inductive RecordOfHead (s : State) (r : Request) : PoolRecord → Prop
  | held (a : AccountIndex) (b : Blocker) (hd : disposition s r = .hold a b) :
      RecordOfHead s r (.held { req := r, account := a, wait := 0, exempt := false, blocker := b })
  | refusing (c : Cause) (a : Option AccountIndex) (hd : disposition s r = .refuse c a) :
      RecordOfHead s r (.refusing { id := r.id, tag := r.tag, dir := r.dir, cause := c, account := a })

/-- The judgment of the head leaves the pool, or takes the head and places its record behind the others (R53, R75). -/
theorem HeadJudgment.pool (hj : HeadJudgment s t) : t.pool = s.pool ∨
    ∃ h i rec, s.hostPort.head = some h ∧ t.hostPort.head = none ∧ RecordOfHead s h.req rec ∧
      t.pool = s.pool ++ [⟨i, rec⟩] := by
  cases hj with
  | waits => exact .inl rfl
  | tagWait h => exact .inl (enterTagWait_pool s h)
  | slotWait h => exact .inl (enterSlotWait_pool s h)
  | held h a b i head hd => exact .inr ⟨h, i, _, head, by simp, .held a b hd, takeHeld_pool ..⟩
  | refusing h c a i head hd => exact .inr ⟨h, i, _, head, by simp, .refusing c a hd, takeRefusing_pool ..⟩

/-- A head is refused for its form, for want of an account, or for credit (R54, R27, R65). -/
theorem cause_of_refuse {r : Request} {c : Cause} {a : Option AccountIndex} (hd : disposition s r = .refuse c a) :
    c = .malformed ∨ c = .unmapped ∨ c = .credit := by
  cases ha : a with
  | some x => subst ha; exact .inr (.inr (cause_of_refuse_account hd))
  | none =>
    unfold disposition at hd
    split at hd
    · exact .inl (Disposition.refuse.inj hd).1.symm
    · split at hd
      · exact Disposition.noConfusion hd
      · split at hd
        · exact .inr (.inl (Disposition.refuse.inj hd).1.symm)
        · exact .inr (.inr (dispositionOf_eq_refuse hd).1)

/-! ### The delivery of a refusal -/

/-- The removal of a slot's entry closes up the two parts of the pool (R75). -/
theorem removeSlot_of_split {front back : List PoolEntry} {i : SlotIndex} {r : PoolRecord} (hd : SlotsDistinct s)
    (hp : s.pool = front ++ ⟨i, r⟩ :: back) : (removeSlot i s).pool = front ++ back := by
  have hne : i ∉ (front ++ back).map fun e => e.slot := by
    unfold SlotsDistinct at hd
    rw [hp, List.map_append, List.map_cons, List.nodup_middle, List.nodup_cons, ← List.map_append] at hd
    exact hd.1
  rw [removeSlot_pool, hp, List.filter_append, List.filter_cons_of_neg (by simp), ← List.filter_append,
    List.filter_eq_self]
  exact fun e he => by simpa using fun hc => hne (List.mem_map.mpr ⟨e, he, hc⟩)

/-- The oldest refusal is delivered where no memory response waits or the preference is REFUSAL (R97, R111). -/
theorem exec_hPortReady_of_refusal {front back : List PoolEntry} {i : SlotIndex} {f : RefusingRecord} (hr : Running s)
    (hp : s.pool = front ++ ⟨i, .refusing f⟩ :: back) (hf : refusingRecords front = [])
    (hw : s.memPort.resp = none ∨ s.merger = .refusal) :
    exec .hPortReadyEvent s = .next (deliverRefusal i f s) := by
  have hready : hPortReady s = deliverRefusal i f s := by
    unfold hPortReady
    rw [portsOpen_of_running hr, if_pos rfl, oldestRefusing_of_split hp hf]
    cases hresp : s.memPort.resp with
    | none => rfl
    | some r =>
      have hmerger : s.merger = .refusal := by simpa [hresp] using hw
      simp [hmerger]
  exact congrArg _ hready

/-- With nothing waiting, the H-port ready event lapses (R110). -/
theorem exec_hPortReady_of_lapse (hresp : s.memPort.resp = none) (hnone : refusingRecords s.pool = []) :
    exec .hPortReadyEvent s = .next s := by
  have hready : hPortReady s = s := by
    unfold hPortReady
    rw [hresp, (oldestRefusing_eq_none_iff s.pool).mpr hnone, ite_self]
  exact congrArg _ hready

/-- The refusal sent to the host, before the head is judged (R113, R97). -/
def refusalSent (i : SlotIndex) (f : RefusingRecord) (s : State) : State :=
  { removeSlot i s with
    hostPort := { s.hostPort with
      sent := some { id := f.id, tag := f.tag, status := .refused f.cause, data := none } }
    merger := .memory }

/-- The delivery of a refusal is its sending and the judgment of the head; no HELD record is re-evaluated (R97). -/
theorem deliverRefusal_eq (i : SlotIndex) (f : RefusingRecord) (s : State) :
    deliverRefusal i f s = judgeHead (refusalSent i f s) := rfl

/-- Settles O30: the refusal is sent and its slot freed, and the judgment of the head adds at most the head. -/
theorem hPortDeliversTheOldestRefusalOrLapses : Obligations.HPortDeliversTheOldestRefusalOrLapses := by
  intro s hr
  refine ⟨fun front back i f hd hp hf hw => ?_, exec_hPortReady_of_lapse⟩
  have hfreed : (refusalSent i f s).pool = front ++ back := removeSlot_of_split hd hp
  have hhead : (refusalSent i f s).hostPort.head = s.hostPort.head := rfl
  rw [exec_hPortReady_of_refusal hr hp hf hw, deliverRefusal_eq]
  refine ⟨_, rfl, judgeHead_sent _, judgeHead_merger _, fun b => judgeHead_balance _ b, ?_, ?_, fun hn => ?_⟩
  · rcases (headJudgment (refusalSent i f s)).pool with hsame | ⟨h, j, rec, hh, -, -, hplaced⟩
    · exact ⟨[], by rw [hsame, hfreed, List.append_nil], Nat.zero_le _, fun _ => rfl⟩
    · refine ⟨_, by rw [hplaced, hfreed], le_rfl, fun hn => ?_⟩
      rw [hhead, hn] at hh
      simp at hh
  · apply State.eq_of_fields <;> simp [refusalSent]
  · rw [judgeHead_of_no_head (hhead.trans hn)]
    apply State.eq_of_fields
    case h7 => exact hfreed
    all_goals rfl

/-! ### The restart over the pool -/

/-- A restart while REGEN is low is its fill, settled (R137). -/
theorem exec_regulationRestart (hr : Running s) (hlow : s.reg.regenHigh = false) :
    exec .regulationRestart s = .next (settle (restartFilled s)) := by
  have hrestart : (if portsOpen s && !s.reg.regenHigh then restartEvent s else s) = settle (restartFilled s) := by
    rw [portsOpen_of_running hr, hlow]
    rfl
  exact congrArg _ hrestart

/-- The configuration live from the restart on passes validation and lies in its ranges (R123, R126). -/
theorem restartFilled_live_sound (hs : StoreSound s) (hrange : StoreInRange s) :
    firstFault (restartFilled s).store.live = none ∧ ConfigurationInRange (restartFilled s).store.live := by
  rw [restartFilled_store]
  split
  next hpending => exact ⟨hs.2 hpending, hrange.1⟩
  next => exact ⟨hs.1, hrange.2⟩

/-- CREDIT is found where the balance of a restrained account falls short alone (R64). -/
theorem creditApplies_of_admissionTest {a : AccountIndex} {exempt : Bool} {r : Request} {older : List HeldRecord}
    (h : admissionTest s a exempt r older = .credit) : creditApplies s a exempt r = true := by
  unfold admissionTest at h
  repeat' split at h
  all_goals simp_all

/-- A full account of a validated configuration covers every well-formed request: the restart finds no CREDIT (R95, R4, R123). -/
theorem not_credit_of_restartFilled (hs : StoreSound s) (hrange : StoreInRange s) {a : AccountIndex} {exempt : Bool}
    {r : Request} {older : List HeldRecord} (hlen : r.len ≤ 16) :
    admissionTest (restartFilled s) a exempt r older ≠ .credit := by
  intro hcredit
  obtain ⟨-, hrestrained, hshort⟩ := (creditApplies_iff ..).mp (creditApplies_of_admissionTest hcredit)
  obtain ⟨hvalid, haccounts, -⟩ := restartFilled_live_sound hs hrange
  obtain ⟨-, -, -, hweight, -⟩ := haccounts a
  have hmode := ((restrained_iff ..).mp hrestrained).2
  have hceiling : 16 * (liveParams (restartFilled s) a).weight ≤ (liveParams (restartFilled s) a).ceiling := by
    have hfaulty := accountFaulty_of_firstFault hvalid a
    simp only [accountFaulty, Bool.and_eq_false_iff, Bool.or_eq_false_iff, beq_eq_false_iff_ne,
      decide_eq_false_iff_not, Nat.not_lt] at hfaulty
    exact hfaulty.resolve_left fun hm => hmode.elim hm.1 hm.2
  have hcost : cost (liveParams (restartFilled s) a) r ≤ 16 * (liveParams (restartFilled s) a).weight :=
    cost_le hweight hlen
  rw [accountOf_restartFilled] at hshort
  exact absurd hshort (Nat.not_lt.mpr (hcost.trans hceiling))

/-- What holds of the request of every HELD record still does where the pool keeps all but the blockers (R80). -/
theorem forall_held_of_heldFields {P : Request → Prop} {es fs : List PoolEntry}
    (h : (heldRecords fs).map heldFields = (heldRecords es).map heldFields) (hP : ∀ g ∈ heldRecords es, P g.req) :
    ∀ g ∈ heldRecords fs, P g.req := by
  intro g hg
  have hm : heldFields g ∈ (heldRecords es).map heldFields := h ▸ List.mem_map_of_mem hg
  obtain ⟨x, hx, he⟩ := List.mem_map.mp hm
  have hreq : x.req = g.req := congrArg Prod.fst he
  exact hreq ▸ hP x hx

/-- Settles O14: after the fill no admission test ends in CREDIT, so that the settling refuses nothing. -/
theorem restartRefusesNoRecord : Obligations.RestartRefusesNoRecord := by
  intro s t hr hlow hs hrange hn hformed hexec
  have hnone : ∀ h ∈ heldRecords (restartFilled s).pool, ∀ older,
      creditRefused (restartFilled s) h (admissionTest (restartFilled s) h.account h.exempt h.req older) = false := by
    intro h hh older
    rw [restartFilled_pool] at hh
    simp [creditRefused, not_credit_of_restartFilled hs hrange (hformed h hh).2]
  have hhead : (restartFilled s).hostPort.head = none := by rw [restartFilled_hostPort, hn]
  obtain ⟨-, hrefusing, hfields, hblocker⟩ := judgePool_quiet (restartFilled s) _ hnone []
  rw [exec_regulationRestart hr hlow, settle_quiet hhead hnone] at hexec
  rw [restartFilled_pool] at hexec hrefusing hfields hblocker
  obtain rfl := Host.Outcome.next.inj hexec
  refine ⟨restartFilled_capture s, hrefusing, hfields, fun h hh => ?_⟩
  obtain ⟨older, hb⟩ := hblocker h hh
  have hlen := forall_held_of_heldFields (P := fun r => 1 ≤ r.len ∧ r.len ≤ 16) hfields hformed h hh
  rw [hb]
  exact not_credit_of_restartFilled hs hrange hlen.2

end Sys2Proof.Machine

/-! SUPPORT. The refusals of one judgment of the pool: which records they take, what they count and what they leave in the Capture
Ring (R82, R145); and the two actions of FLUSH (R88 to R90, R181). -/

namespace Sys2Proof.Machine

open Sys2Proof.Safety

-- One declaration at a time: elaborated side by side, the text outgrows the memory of the check.
set_option Elab.async false

variable {s t : State}

/-! ### A judgment, entry by entry -/

section
variable {o : Occasion} {older : List HeldRecord} {i : SlotIndex} {h : HeldRecord}

theorem judgePool_cons_refusing (s : State) (o : Occasion) (older : List HeldRecord) (i : SlotIndex)
    (r : RefusingRecord) (es : List PoolEntry) : judgePool s o older (⟨i, .refusing r⟩ :: es) =
      (⟨i, .refusing r⟩ :: (judgePool s o older es).1, (judgePool s o older es).2) := rfl

theorem judgePool_cons_keep {b : Blocker} (hj : judge s o h older = .keep b) (es : List PoolEntry) :
    judgePool s o older (⟨i, .held h⟩ :: es) =
      (⟨i, .held { h with blocker := b }⟩ :: (judgePool s o (older ++ [{ h with blocker := b }]) es).1,
        (judgePool s o (older ++ [{ h with blocker := b }]) es).2) := by
  simp [judgePool, hj]

theorem judgePool_cons_refuse {c : Cause} (hj : judge s o h older = .refuse c) (es : List PoolEntry) :
    judgePool s o older (⟨i, .held h⟩ :: es) =
      (⟨i, .refusing (refusingOf h c)⟩ :: (judgePool s o older es).1, (h, c) :: (judgePool s o older es).2) := by
  simp [judgePool, hj]

end

/-- The refusal that a place of the pool shows: a HELD record before the event, a REFUSING one after it (R82). -/
def refusalOf (change : PoolEntry × PoolEntry) : Option (HeldRecord × Cause) :=
  match change.1.record, change.2.record with
  | .held h, .refusing r => some (h, r.cause)
  | .held _, .held _ => none
  | .refusing _, _ => none

/-- The refusals of a judgment are those that the pool shows, place by place (R82). -/
theorem judgePool_refusals (s : State) (o : Occasion) (older : List HeldRecord) (es : List PoolEntry) :
    (judgePool s o older es).2 = (es.zip (judgePool s o older es).1).filterMap refusalOf := by
  induction es generalizing older with
  | nil => rfl
  | cons e rest ih =>
    obtain ⟨i, h | r⟩ := e
    · cases hj : judge s o h older with
      | keep b => rw [judgePool_cons_keep hj, ih]; rfl
      | refuse c => rw [judgePool_cons_refuse hj, ih]; rfl
    · rw [judgePool_cons_refusing, ih]; rfl

/-- Every refusal makes one REFUSING record more (R82). -/
theorem judgePool_refusingRecords_length (s : State) (o : Occasion) (older : List HeldRecord) (es : List PoolEntry) :
    (refusingRecords (judgePool s o older es).1).length =
      (refusingRecords es).length + (judgePool s o older es).2.length := by
  induction es generalizing older with
  | nil => rfl
  | cons e rest ih =>
    obtain ⟨i, h | r⟩ := e
    · cases hj : judge s o h older with
      | keep b => rw [judgePool_cons_keep hj]; exact ih _
      | refuse c => rw [judgePool_cons_refuse hj]; simp [ih, Nat.add_assoc]
    · rw [judgePool_cons_refusing]; simp [ih, Nat.add_right_comm]

/-! ### What the refusals of an event leave -/

/-- What one refusal adds to the Capture Ring (R144, R145, R50). -/
def captureRefusal (period slice : Nat) (ring : CaptureRing) (r : HeldRecord × Cause) : CaptureRing :=
  ring.add
    { seq := ring.seq, cause := r.2, account := some r.1.account, id := r.1.req.id, tag := r.1.req.tag,
      dir := r.1.req.dir, addr := r.1.req.addr, len := r.1.req.len, period := period, slice := slice }

theorem recordRefusal_capture (s : State) (r : HeldRecord × Cause) :
    (recordRefusal s r).capture = captureRefusal s.time.period s.time.slice s.capture r := by
  unfold recordRefusal
  rw [captureAdd_capture, updateAccount_capture]
  rfl

theorem foldl_recordRefusal_capture (rs : List (HeldRecord × Cause)) (s : State) :
    (rs.foldl recordRefusal s).capture = rs.foldl (captureRefusal s.time.period s.time.slice) s.capture := by
  induction rs generalizing s with
  | nil => rfl
  | cons r rs ih => rw [List.foldl_cons, ih, recordRefusal_time, recordRefusal_capture]; rfl

/-- What an event adds to the ring at the places of the pool is what the refusals there add. -/
theorem foldl_captureAt (period slice : Nat) (changes : List (PoolEntry × PoolEntry)) (ring : CaptureRing) :
    changes.foldl (captureAt period slice) ring =
      (changes.filterMap refusalOf).foldl (captureRefusal period slice) ring := by
  induction changes generalizing ring with
  | nil => rfl
  | cons change changes ih =>
    rw [List.foldl_cons, ih]
    obtain ⟨⟨i, h | r⟩, ⟨j, g | q⟩⟩ := change <;> rfl

/-- The sequence count advances with every add, and wraps (R145). -/
theorem foldl_captureRefusal_seq (period slice : Nat) (rs : List (HeldRecord × Cause)) (ring : CaptureRing)
    (h : ring.seq < 65536) :
    (rs.foldl (captureRefusal period slice) ring).seq = (ring.seq + rs.length) % 65536 := by
  induction rs generalizing ring with
  | nil => exact (Nat.mod_eq_of_lt h).symm
  | cons r rs ih =>
    have hadd : (captureRefusal period slice ring r).seq = (ring.seq + 1) % 65536 := by
      unfold captureRefusal CaptureRing.add
      dsimp only
      split <;> rfl
    rw [List.foldl_cons, ih _ (by rw [hadd]; exact Nat.mod_lt _ (by decide)), hadd, List.length_cons]
    omega

theorem recordRefusal_alert (s : State) (r : HeldRecord × Cause) :
    (recordRefusal s r).alert = { s.alert with causes := s.alert.causes ||| 0x01 } := by
  unfold recordRefusal
  rw [captureAdd_alert, updateAccount_alert]

/-- A refusal sets CAPTURED (R145, R150). -/
theorem foldl_recordRefusal_causes {rs : List (HeldRecord × Cause)} (h : rs ≠ []) (s : State) :
    (rs.foldl recordRefusal s).alert.causes = s.alert.causes ||| 0x01 := by
  induction rs generalizing s with
  | nil => exact absurd rfl h
  | cons r rs ih =>
    rw [List.foldl_cons]
    cases rs with
    | nil => rw [List.foldl_nil, recordRefusal_alert]
    | cons q rs => rw [ih (List.cons_ne_nil q rs), recordRefusal_alert]; simp [BitVec.or_assoc]

/-- The flush refusals of an account rise by its records refused as FLUSHED, and stop at their maximum (R15, R90). -/
theorem foldl_recordRefusal_flushRefusals (rs : List (HeldRecord × Cause)) (s : State) (a : AccountIndex) :
    (accountOf (rs.foldl recordRefusal s) a).counters.flushRefusals =
      if refusedCount (rs.filter fun r => r.2 == .flushed) a = 0 then (accountOf s a).counters.flushRefusals
      else min ((accountOf s a).counters.flushRefusals + refusedCount (rs.filter fun r => r.2 == .flushed) a)
        4294967295 := by
  induction rs generalizing s with
  | nil => rfl
  | cons r rs ih =>
    obtain ⟨h, c⟩ := r
    rw [List.foldl_cons, ih, accountOf_recordRefusal]
    by_cases hc : c = .flushed
    · subst hc
      rw [List.filter_cons_of_pos rfl, refusedCount_cons]
      by_cases ha : h.account = a
      · have hone : (countRefusal .flushed (countUnhold (accountOf s a))).counters.flushRefusals =
          min ((accountOf s a).counters.flushRefusals + 1) 4294967295 := rfl
        simp only [ha, if_true, hone]
        split <;> split <;> omega
      · simp only [ha, if_false, Nat.zero_add]
    · have hother : (countRefusal c (countUnhold (accountOf s a))).counters.flushRefusals =
          (accountOf s a).counters.flushRefusals := by
        cases c with
        | flushed => exact absurd rfl hc
        | credit | expired | unmapped | malformed => rfl
      rw [List.filter_cons_of_neg (by simpa using hc), apply_ite (fun acc : Account => acc.counters.flushRefusals),
        hother, ite_self]

/-! ### The records that a flush refuses -/

theorem judge_of_flushed {o : Occasion} {h : HeldRecord} (hf : flushedAt o h = true) (older : List HeldRecord) :
    judge s o h older = .refuse .flushed := by
  unfold judge
  rw [if_pos hf]

/-- Cause FLUSHED is that of the records concerned alone (R90). -/
theorem judge_of_not_flushed {o : Occasion} {h : HeldRecord} (hf : flushedAt o h = false) (older : List HeldRecord) :
    judge s o h older ≠ .refuse .flushed := by
  unfold judge
  rw [if_neg (by simp [hf])]
  repeat' split
  all_goals simp

/-- A flush refuses the records concerned, oldest first (R90). -/
theorem judgePool_flushed (s : State) (o : Occasion) (older : List HeldRecord) (es : List PoolEntry) :
    ((judgePool s o older es).2.filter fun r => r.2 == .flushed).map Prod.fst = (heldRecords es).filter (flushedAt o) := by
  induction es generalizing older with
  | nil => rfl
  | cons e rest ih =>
    obtain ⟨i, h | r⟩ := e
    · cases hf : flushedAt o h with
      | true => rw [judgePool_cons_refuse (judge_of_flushed hf older)]; simp [hf, ih]
      | false =>
        have hne := judge_of_not_flushed (s := s) hf older
        cases hj : judge s o h older with
        | keep b => rw [judgePool_cons_keep hj]; simp [hf, ih]
        | refuse c =>
          have hc : c ≠ .flushed := fun hc => hne (hc ▸ hj)
          rw [judgePool_cons_refuse hj]; simp [hf, hc, ih]
    · exact ih older

/-- No record concerned stays HELD (R90). -/
theorem not_flushed_of_kept (s : State) (o : Occasion) (older : List HeldRecord) (es : List PoolEntry) :
    ∀ h ∈ heldRecords (judgePool s o older es).1, flushedAt o h = false := by
  induction es generalizing older with
  | nil => simp [judgePool]
  | cons e rest ih =>
    obtain ⟨i, h | r⟩ := e
    · cases hj : judge s o h older with
      | keep b =>
        have hf : flushedAt o h = false := by
          by_contra hf
          rw [judge_of_flushed (by simpa using hf) older] at hj
          exact Verdict.noConfusion hj
        rw [judgePool_cons_keep hj, heldRecords_cons_held, List.forall_mem_cons]
        exact ⟨hf, ih _⟩
      | refuse c => rw [judgePool_cons_refuse hj]; exact ih older
    · exact ih older

/-- A record concerned is REFUSING with cause FLUSHED in its slot (R90, R82). -/
theorem mem_judgePool_of_flushed {o : Occasion} {es : List PoolEntry} {i : SlotIndex} {h : HeldRecord}
    (older : List HeldRecord) (hm : ⟨i, .held h⟩ ∈ es) (hf : flushedAt o h = true) :
    ⟨i, .refusing (refusingOf h .flushed)⟩ ∈ (judgePool s o older es).1 := by
  obtain ⟨k, hk⟩ := List.mem_iff_getElem?.mp hm
  have hat := judgePool_at s o older hk
  simp only [judgedEntry, judge_of_flushed hf] at hat
  exact List.mem_iff_getElem?.mpr ⟨k, hat⟩

/-! ### FLUSH at a SELECTED station -/

/-- A selector names one account or all (R181, R186). -/
def SelectorNames (selector : Byte) : Prop := selector.toNat ≤ 15 ∨ selector = 0xFF

theorem selectorInRange_iff (selector : Byte) : selectorInRange selector.toNat = true ↔ SelectorNames selector := by
  have hall : selector.toNat = 255 ↔ selector = 0xFF := by rw [BitVec.toNat_eq]; rfl
  simp [selectorInRange, SelectorNames, hall]

/-- The records concerned are those that the selector names (R88). -/
theorem concerned_flushTarget {selector : Byte} (hn : SelectorNames selector) (h : HeldRecord) :
    concerned (flushTarget selector.toNat) h = flushNames selector h := by
  unfold flushTarget flushNames
  rcases hn with hlow | rfl
  · have hne : selector ≠ 0xFF := fun hc => by subst hc; exact absurd hlow (by decide)
    have hval : (accountIndexOf selector.toNat).val = selector.toNat := Nat.mod_eq_of_lt (Nat.lt_succ_of_le hlow)
    rw [if_neg (by omega), beq_eq_false_iff_ne.mpr hne, Bool.false_or, Bool.eq_iff_iff]
    simp only [concerned, beq_iff_eq]
    rw [eq_comm, Fin.ext_iff, hval]
  · rfl

theorem concernedCount_flushTarget {selector : Byte} (hn : SelectorNames selector) (s : State) :
    concernedCount (flushTarget selector.toNat) s = ((heldRecords s.pool).filter (flushNames selector)).length := by
  unfold concernedCount
  rw [funext (concerned_flushTarget hn)]

/-- A FLUSH frame at a SELECTED station is refused with RANGE, or the flush is carried out and its count reported (R88, R181). -/
theorem receiveFrame_flush (h : SelectedListening s) (selector action : Byte) (ha : action.toNat ≤ 1) :
    (¬SelectorNames selector → receiveFrame 0x28 [selector, action] s = answering .range [] s) ∧
    (SelectorNames selector → receiveFrame 0x28 [selector, action] s =
      answering .done [BitVec.ofNat 8 ((heldRecords s.pool).filter (flushNames selector)).length]
        (performFlush (flushTarget selector.toNat) (action.toNat == 1) s).1) := by
  have hcode : (0x28 : Byte) = Command.flush.code := rfl
  have hrange : payloadInRange .flush [selector, action] = selectorInRange selector.toNat := by
    simp [payloadInRange, fieldAt_one, ha]
  rw [receiveFrame_answering h (by simp), hcode, execute_code, hrange, ← selectorInRange_iff]
  refine ⟨fun hn => ?_, fun hn => ?_⟩
  · rw [Bool.not_eq_true] at hn
    simp [hn, Command.payloadLength, replyOnly]
  · rw [hn, if_neg (by simp [Command.payloadLength]), if_neg (by simp), if_neg (by simp [Command.refusedWhilePending])]
    simp only [perform, fieldAt_one, performFlush, replyDone, fieldBytes_one, List.getD_cons_zero, List.getD_cons_succ]
    rw [concernedCount_flushTarget ((selectorInRange_iff selector).mp hn)]

/-- The row of a FLUSH is its frame: the selector and the action (R181, log 5). -/
theorem exec_flush (selector : Byte) (s : State) :
    exec (.flushRelease selector) s = .next (receiveFrame 0x28 [selector, 0] s) ∧
      exec (.flushRefuse selector) s = .next (receiveFrame 0x28 [selector, 1] s) := by
  have hrelease : [selector] ++ fieldBytes 1 0 = [selector, 0] := rfl
  have hrefuse : [selector] ++ fieldBytes 1 1 = [selector, 1] := rfl
  rw [← hrelease, ← hrefuse]
  exact ⟨rfl, rfl⟩

/-! ### FLUSH with action RELEASE -/

/-- A record after a release: exempt where it is concerned (R89). -/
def releasedRecord (x : Option AccountIndex) (h : HeldRecord) : HeldRecord :=
  { h with exempt := h.exempt || concerned x h }

theorem releaseEntry_held (x : Option AccountIndex) (i : SlotIndex) (h : HeldRecord) :
    releaseEntry x ⟨i, .held h⟩ = ⟨i, .held (releasedRecord x h)⟩ := by
  cases hc : concerned x h with
  | true => simp [releaseEntry, releasedRecord, hc]
  | false => simp [releaseEntry, releasedRecord, hc]

theorem releaseEntry_refusing (x : Option AccountIndex) (i : SlotIndex) (r : RefusingRecord) :
    releaseEntry x ⟨i, .refusing r⟩ = ⟨i, .refusing r⟩ := rfl

/-- What the admission test of a younger request reads of an older record (R60 to R62). -/
def aheadFields (h : HeldRecord) : Request × AccountIndex := (h.req, h.account)

theorem admissionTest_of_aheadFields {older older' : List HeldRecord}
    (ho : older'.map aheadFields = older.map aheadFields) (s : State) (a : AccountIndex) (exempt : Bool) (r : Request) :
    admissionTest s a exempt r older' = admissionTest s a exempt r older := by
  have any : ∀ p : Request × AccountIndex → Bool,
      (older'.any fun h => p (aheadFields h)) = older.any fun h => p (aheadFields h) := by
    intro p
    have hl := congrArg (fun l => l.any p) ho
    simpa [List.any_map, Function.comp_def] using hl
  have hid : idOrderApplies r older' = idOrderApplies r older := any fun q => q.1.id == r.id
  have hhazard : hazardApplies r older' = hazardApplies r older :=
    any fun q => overlaps q.1 r && (q.1.dir == .write || r.dir == .write)
  have horder : accountOrderApplies a older' = accountOrderApplies a older := any fun q => q.2 == a
  unfold admissionTest
  rw [hid, hhazard, horder]

/-- At a change of an input, a record that is not to be refused for credit stays HELD (R80, R83). -/
theorem judge_change_of_not_refused {h : HeldRecord} {older : List HeldRecord}
    (hc : creditRefused s h (admissionTest s h.account h.exempt h.req older) = false) :
    judge s .change h older = .keep (admissionTest s h.account h.exempt h.req older) := by
  simp [judge, flushedAt, hc]

/-- A record of a settled pool is not refused after a release: it is exempt, or its blocker is the one it had (R89, R83). -/
theorem judge_released {older older' : List HeldRecord} {h : HeldRecord} (x : Option AccountIndex)
    (ho : older'.map aheadFields = older.map aheadFields)
    (hb : h.blocker = admissionTest s h.account h.exempt h.req older) (hc : creditRefused s h h.blocker = false) :
    ∃ b, judge s .change (releasedRecord x h) older' = .keep b := by
  refine ⟨_, judge_change_of_not_refused ?_⟩
  cases hx : concerned x h with
  | true => simp [creditRefused, releasedRecord, hx]
  | false =>
    have hsame : releasedRecord x h = h := by simp [releasedRecord, hx]
    rwa [hsame, admissionTest_of_aheadFields ho, ← hb]

/-- The judgment after a release refuses nothing and changes exempt flags and blockers alone (R89). -/
theorem judgePool_released (x : Option AccountIndex) {older older' : List HeldRecord} {es : List PoolEntry}
    (ho : older'.map aheadFields = older.map aheadFields) (hs : blockersCurrent s older es = true) :
    (judgePool s .change older' (es.map (releaseEntry x))).2 = [] ∧
      refusingRecords (judgePool s .change older' (es.map (releaseEntry x))).1 = refusingRecords es ∧
      (heldRecords (judgePool s .change older' (es.map (releaseEntry x))).1).map heldFields =
        (heldRecords es).map fun h => heldFields (releasedRecord x h) := by
  induction es generalizing older older' with
  | nil => exact ⟨rfl, rfl, rfl⟩
  | cons e rest ih =>
    obtain ⟨i, h | r⟩ := e
    · obtain ⟨hb, hc, hrest⟩ := (blockersCurrent_cons_held ..).mp hs
      obtain ⟨b, hj⟩ := judge_released x ho hb hc
      rw [List.map_cons, releaseEntry_held, judgePool_cons_keep hj]
      have hahead : (older' ++ [{ releasedRecord x h with blocker := b }]).map aheadFields =
          (older ++ [h]).map aheadFields := by
        rw [List.map_append, List.map_append, ho]
        rfl
      obtain ⟨hnone, hrefusing, hheld⟩ := ih hahead hrest
      exact ⟨hnone, hrefusing, congrArg (heldFields (releasedRecord x h) :: ·) hheld⟩
    · rw [List.map_cons, releaseEntry_refusing, judgePool_cons_refusing]
      obtain ⟨hnone, hrefusing, hheld⟩ := ih ho hs
      exact ⟨hnone, congrArg (r :: ·) hrefusing, hheld⟩

/-- Over a settled pool with no head offered, a release changes nothing outside the pool (R89). -/
theorem settle_released (x : Option AccountIndex) (hs : PoolSettled s) (hhead : s.hostPort.head = none) :
    settle (releaseRecords x s) =
      { s with pool := (judgePool (releaseRecords x s) .change [] (s.pool.map (releaseEntry x))).1 } := by
  have same : SameTest s (releaseRecords x s) := {}
  have hnone := (judgePool_released (s := releaseRecords x s) x rfl ((same.blockersCurrent [] s.pool).trans hs)).1
  rw [settle_of_no_head (s := releaseRecords x s) hhead]
  change (judgePool (releaseRecords x s) .change [] (s.pool.map (releaseEntry x))).2.foldl recordRefusal _ = _
  rw [hnone]
  rfl

/-- Settles O44: the records concerned become exempt, and over a settled pool no other record is then refused. -/
theorem flushReleaseExemptsTheConcerned : Obligations.FlushReleaseExemptsTheConcerned := by
  intro selector s hsel
  obtain ⟨hnothing, hnames⟩ := receiveFrame_flush hsel selector 0 (by decide)
  rw [(exec_flush selector s).1]
  refine ⟨fun hn => congrArg _ (hnothing hn), fun hn hs hhead => ?_⟩
  let x := flushTarget selector.toNat
  have same : SameTest s (releaseRecords x s) := {}
  obtain ⟨-, hrefusing, hheld⟩ :=
    judgePool_released (s := releaseRecords x s) x rfl ((same.blockersCurrent [] s.pool).trans hs)
  have hsettle := settle_released x hs hhead
  refine ⟨settle (releaseRecords x s), congrArg _ (hnames hn), ?_, ?_, ?_, ?_⟩
  · rw [hsettle]
  · rw [settle_poolSlots (s := releaseRecords x s) hhead]
    unfold poolSlots
    change (s.pool.map (releaseEntry x)).map _ = _
    rw [List.map_map]
    exact List.map_congr_left fun e _ => releaseEntry_slot x e
  · rw [hsettle]; exact hrefusing
  · rw [hsettle]
    refine hheld.trans (List.map_congr_left fun h _ => ?_)
    simp only [heldFields, releasedRecord, x, concerned_flushTarget hn]

/-! ### FLUSH with action REFUSE -/

/-- Every record of an account is concerned by a flush, or none is (R88). -/
theorem flushNames_of_account (selector : Byte) {g h : HeldRecord} (ha : g.account = h.account) :
    flushNames selector g = flushNames selector h := by
  unfold flushNames
  rw [ha]

/-- Where all records of an account are concerned, all are refused (R88, R90). -/
theorem refusedCount_of_concerned {o : Occasion} {a : AccountIndex} (ho : ∀ g, g.account = a → flushedAt o g = true)
    (s : State) (older : List HeldRecord) (es : List PoolEntry) :
    refusedCount (judgePool s o older es).2 a = heldCount es a := by
  have hsum := judgePool_heldCount s o older es a
  have hnone : heldCount (judgePool s o older es).1 a = 0 := by
    unfold heldCount
    rw [List.length_eq_zero_iff, List.filter_eq_nil_iff]
    intro g hg ha
    have hkept := not_flushed_of_kept s o older es g hg
    rw [ho g (by simpa using ha)] at hkept
    exact Bool.noConfusion hkept
  omega

/-- The number of an account's records that a flush names (R88). -/
def namedCount (selector : Byte) (s : State) (a : AccountIndex) : Nat :=
  ((heldRecords s.pool).filter fun h => flushNames selector h && h.account == a).length

/-- The records of an account that a judgment refuses as FLUSHED are those concerned (R90). -/
theorem refusedCount_flushed (s : State) (o : Occasion) (older : List HeldRecord) (es : List PoolEntry)
    (a : AccountIndex) :
    refusedCount ((judgePool s o older es).2.filter fun r => r.2 == .flushed) a =
      ((heldRecords es).filter fun h => flushedAt o h && h.account == a).length := by
  have hflushed := congrArg (fun l => (l.filter fun h : HeldRecord => h.account == a).length)
    (judgePool_flushed s o older es)
  rw [List.filter_map, List.length_map, List.filter_filter] at hflushed
  simpa [refusedCount, Function.comp_def, Bool.and_comm] using hflushed

/-- If a flush names a record of an account, it names them all (R88). -/
theorem namedCount_pos {selector : Byte} {a : AccountIndex} (h : 0 < namedCount selector s a) :
    (∀ g : HeldRecord, g.account = a → flushNames selector g = true) ∧ namedCount selector s a = heldCount s.pool a := by
  obtain ⟨x, hx⟩ := List.exists_mem_of_length_pos h
  obtain ⟨hnamed, hax⟩ : flushNames selector x = true ∧ x.account = a := by simpa using (List.mem_filter.mp hx).2
  have hall : ∀ g : HeldRecord, g.account = a → flushNames selector g = true := fun g hg =>
    (flushNames_of_account selector (hg.trans hax.symm)).trans hnamed
  refine ⟨hall, congrArg List.length (List.filter_congr fun g _ => ?_)⟩
  by_cases hg : g.account = a
  · simp [hall g hg]
  · simp [hg]

/-- A flush with action REFUSE takes its records from the held count and adds them to the flush refusals (R90, R82, R15). -/
theorem accountOf_refuseRecords {selector : Byte} (hn : SelectorNames selector) (s : State) (a : AccountIndex) :
    let t := refuseRecords (flushTarget selector.toNat) s
    let n := namedCount selector s a
    (0 < n → (accountOf t a).held = (accountOf s a).held - n ∧
      (accountOf t a).counters.flushRefusals = min ((accountOf s a).counters.flushRefusals + n) 4294967295) ∧
    (n = 0 → (accountOf t a).counters.flushRefusals = (accountOf s a).counters.flushRefusals) := by
  intro t n
  let o : Occasion := .flushRefuse (flushTarget selector.toNat)
  have hflushed : ∀ g, flushedAt o g = flushNames selector g := concerned_flushTarget hn
  have hcount : refusedCount ((judgePool s o [] s.pool).2.filter fun r => r.2 == .flushed) a = n := by
    rw [refusedCount_flushed]
    simp only [hflushed]
    rfl
  have hrefusals := foldl_recordRefusal_flushRefusals (judgePool s o [] s.pool).2
    { s with pool := (judgePool s o [] s.pool).1 } a
  rw [hcount] at hrefusals
  refine ⟨fun hpos => ⟨?_, ?_⟩, fun hzero => ?_⟩
  · obtain ⟨hall, hheld⟩ := namedCount_pos hpos
    have hrefused := refusedCount_of_concerned (o := o) (fun g hg => (hflushed g).trans (hall g hg)) s [] s.pool
    have hfold := foldl_recordRefusal_held (judgePool s o [] s.pool).2 { s with pool := (judgePool s o [] s.pool).1 } a
    rw [hrefused, ← hheld] at hfold
    exact hfold
  · exact hrefusals.trans (if_neg (Nat.pos_iff_ne_zero.mp hpos))
  · exact hrefusals.trans (if_pos hzero)

/-- The ring after a judgment: the capture records of its refusals, in pool order (R82, R145). -/
theorem reevaluatePool_capture (o : Occasion) (s : State) :
    (reevaluatePool o s).capture =
      (s.pool.zip (reevaluatePool o s).pool).foldl (captureAt s.time.period s.time.slice) s.capture := by
  refine (foldl_recordRefusal_capture _ _).trans ?_
  rw [judgePool_refusals, reevaluatePool_pool, foldl_captureAt]

/-- The sequence count advances by the REFUSING records that a judgment makes (R82, R145). -/
theorem reevaluatePool_seq (o : Occasion) (hs : s.capture.seq < 65536) :
    (reevaluatePool o s).capture.seq = (s.capture.seq +
      ((refusingRecords (reevaluatePool o s).pool).length - (refusingRecords s.pool).length)) % 65536 := by
  have hseq := foldl_captureRefusal_seq s.time.period s.time.slice (judgePool s o [] s.pool).2 s.capture hs
  rw [reevaluatePool_pool, judgePool_refusingRecords_length, Nat.add_sub_cancel_left, ← hseq]
  exact congrArg CaptureRing.seq (foldl_recordRefusal_capture _ _)

/-- Settles O45: the judgment of the flush refuses the records concerned, and what its refusals count and capture is what the pool
shows. -/
theorem flushRefuseRefusesTheConcerned : Obligations.FlushRefuseRefusesTheConcerned := by
  intro selector s hsel
  obtain ⟨hnothing, hnames⟩ := receiveFrame_flush hsel selector 1 (by decide)
  rw [(exec_flush selector s).2]
  refine ⟨fun hn => congrArg _ (hnothing hn), fun hn hhead hring => ?_⟩
  let x := flushTarget selector.toNat
  have hflushed : ∀ g, flushedAt (.flushRefuse x) g = flushNames selector g := concerned_flushTarget hn
  have hdone : (performFlush x true s).1 = refuseRecords x s :=
    judgeHead_of_no_head (by rw [refuseRecords_hostPort, hhead])
  refine ⟨refuseRecords x s, ?_, ?_, fun i h hm hnamed => ?_, fun h hm => ?_, fun a => ?_, ?_, ?_, fun hsome => ?_, ?_⟩
  · rw [← hdone]; exact congrArg _ (hnames hn)
  · unfold poolSlots; rw [refuseRecords_pool, judgePool_slots]
  · rw [refuseRecords_pool]
    exact mem_judgePool_of_flushed [] hm ((hflushed h).trans hnamed)
  · rw [refuseRecords_pool] at hm
    exact (hflushed h).symm.trans (not_flushed_of_kept s _ [] s.pool h hm)
  · obtain ⟨hbalance, hout⟩ := reevaluatePool_balance s (.flushRefuse x) a
    exact ⟨hbalance, hout, accountOf_refuseRecords hn s a⟩
  · exact reevaluatePool_capture (.flushRefuse x) s
  · exact reevaluatePool_seq (.flushRefuse x) hring.2.2
  · refine foldl_recordRefusal_causes (fun hnone => hsome ?_) _
    have hfilter := judgePool_flushed s (.flushRefuse x) [] s.pool
    rw [hnone, funext hflushed] at hfilter
    exact hfilter.symm
  · apply State.eq_of_fields <;> simp

end Sys2Proof.Machine

/-! SUPPORT. The slice boundary over the pool: place by place, what ageing and the expiry judgment make of a record (R85, R86, R83), the
peak wait (R16), and the row EXPIRY (log 1). -/

namespace Sys2Proof.Machine

open Sys2Proof.Safety

-- One declaration at a time: elaborated side by side, the text outgrows the memory of the check.
set_option Elab.async false

variable {s t : State}

/-! ### The judgment at a slice boundary -/

/-- At a slice boundary a record is refused for credit first, then for its wait, and else stays HELD (R83, R86). -/
theorem judge_boundary {h : HeldRecord} {older : List HeldRecord} {b : Blocker}
    (hb : admissionTest s h.account h.exempt h.req older = b) :
    judge s .boundary h older =
      if creditRefused s h b = true then .refuse .credit
      else if expires s h b = true then .refuse .expired
      else .keep b := by
  simp [judge, flushedAt, hb]

theorem creditRefused_iff (s : State) (h : HeldRecord) (b : Blocker) :
    creditRefused s h b = true ↔ (liveParams s h.account).mode = .refuse ∧ regulationActive s = true ∧
      h.exempt = false ∧ b = .credit := by
  simp [creditRefused, and_assoc]

theorem expires_iff (s : State) (h : HeldRecord) (b : Blocker) :
    expires s h b = true ↔ h.exempt = false ∧ (liveParams s h.account).maxWait ≠ 0 ∧
      (liveParams s h.account).maxWait ≤ h.wait ∧ b ≠ .none := by
  simp [expires, and_assoc]

/-- Cause EXPIRED is that of a record that meets the conditions of expiry alone (R86). -/
theorem expires_of_judge {o : Occasion} {h : HeldRecord} {older : List HeldRecord}
    (hj : judge s o h older = .refuse .expired) :
    expires s h (admissionTest s h.account h.exempt h.req older) = true := by
  unfold judge at hj
  dsimp only at hj
  split at hj
  · simp at hj
  · split at hj
    · simp at hj
    · split at hj
      next he => exact (Bool.and_eq_true_iff.mp he).2
      · simp at hj

/-! ### Entries after a judgment -/

theorem judgedEntry_slot (s : State) (o : Occasion) (older : List HeldRecord) (e : PoolEntry) :
    (judgedEntry s o older e).slot = e.slot := by
  unfold judgedEntry
  repeat' split
  all_goals rfl

/-- A HELD record after a judgment was HELD before it, with the same fields but the blocker (R80). -/
theorem held_of_judgedEntry {o : Occasion} {older : List HeldRecord} {e : PoolEntry} {i : SlotIndex} {h : HeldRecord}
    (he : judgedEntry s o older e = ⟨i, .held h⟩) :
    ∃ g, e = ⟨i, .held g⟩ ∧ heldFields h = heldFields g := by
  obtain ⟨j, g | r⟩ := e
  · cases hj : judge s o g older with
    | keep b =>
      simp only [judgedEntry, hj, PoolEntry.mk.injEq, PoolRecord.held.injEq] at he
      obtain ⟨rfl, rfl⟩ := he
      exact ⟨g, rfl, rfl⟩
    | refuse c => simp [judgedEntry, hj] at he
  · simp [judgedEntry] at he

/-- A REFUSING record after a judgment was so before it, or is a HELD record the judgment refuses (R82). -/
theorem refusing_of_judgedEntry {o : Occasion} {older : List HeldRecord} {e : PoolEntry} {i : SlotIndex}
    {r : RefusingRecord} (he : judgedEntry s o older e = ⟨i, .refusing r⟩) :
    e = ⟨i, .refusing r⟩ ∨ ∃ g c, e = ⟨i, .held g⟩ ∧ r = refusingOf g c ∧ judge s o g older = .refuse c := by
  obtain ⟨j, g | q⟩ := e
  · cases hj : judge s o g older with
    | keep b => simp [judgedEntry, hj] at he
    | refuse c =>
      simp only [judgedEntry, hj, PoolEntry.mk.injEq, PoolRecord.refusing.injEq] at he
      obtain ⟨rfl, rfl⟩ := he
      exact .inr ⟨g, c, rfl, rfl, hj⟩
  · exact .inl he

/-- Every entry after a judgment is the judged entry of one before it (R80). -/
theorem mem_judgePool {o : Occasion} {older : List HeldRecord} {es : List PoolEntry} {e' : PoolEntry}
    (hm : e' ∈ (judgePool s o older es).1) : ∃ e ∈ es, ∃ ahead, e' = judgedEntry s o ahead e := by
  obtain ⟨k, hk⟩ := List.mem_iff_getElem?.mp hm
  have hlen : (judgePool s o older es).1.length = es.length := by
    simpa using congrArg List.length (judgePool_slots s o older es)
  obtain ⟨hlt, -⟩ := List.getElem?_eq_some_iff.mp hk
  have hat := judgePool_at s o older (List.getElem?_eq_getElem (hlen ▸ hlt))
  exact ⟨_, List.getElem_mem _, _, Option.some.inj (hk.symm.trans hat)⟩

/-! ### Ageing -/

theorem ageEntry_held (i : SlotIndex) (h : HeldRecord) : ageEntry ⟨i, .held h⟩ = ⟨i, .held (ageRecord h)⟩ := rfl

theorem ageEntry_refusing (i : SlotIndex) (r : RefusingRecord) : ageEntry ⟨i, .refusing r⟩ = ⟨i, .refusing r⟩ := rfl

theorem held_of_ageEntry {e : PoolEntry} {i : SlotIndex} {g : HeldRecord} (he : ageEntry e = ⟨i, .held g⟩) :
    ∃ h, e = ⟨i, .held h⟩ ∧ g = ageRecord h := by
  obtain ⟨j, h | r⟩ := e
  · simp only [ageEntry_held, PoolEntry.mk.injEq, PoolRecord.held.injEq] at he
    obtain ⟨rfl, rfl⟩ := he
    exact ⟨h, rfl, rfl⟩
  · simp [ageEntry_refusing] at he

theorem refusing_of_ageEntry {e : PoolEntry} {i : SlotIndex} {r : RefusingRecord} (he : ageEntry e = ⟨i, .refusing r⟩) :
    e = ⟨i, .refusing r⟩ := by
  obtain ⟨j, h | q⟩ := e
  · simp [ageEntry_held] at he
  · exact he

theorem heldRecords_map_ageEntry (es : List PoolEntry) :
    heldRecords (es.map ageEntry) = (heldRecords es).map ageRecord := by
  induction es with
  | nil => rfl
  | cons e rest ih =>
    obtain ⟨i, h | r⟩ := e
    · rw [List.map_cons, ageEntry_held, heldRecords_cons_held, ih]; rfl
    · exact ih

/-- The greatest wait is 0 or the wait of a HELD record of the account, and at least each of those (R16). -/
theorem greatestWait_spec (es : List PoolEntry) (a : AccountIndex) :
    (greatestWait es a = 0 ∨ ∃ h ∈ heldRecords es, h.account = a ∧ greatestWait es a = h.wait) ∧
      ∀ h ∈ heldRecords es, h.account = a → h.wait ≤ greatestWait es a := by
  have hmax : (0 :: ((heldRecords es).filter fun h => h.account == a).map fun h => h.wait).max? =
      some (greatestWait es a) := List.max?_cons'
  obtain ⟨hmem, hle⟩ := List.max?_eq_some_iff.mp hmax
  refine ⟨?_, fun h hh ha => hle _ ?_⟩
  · rcases List.mem_cons.mp hmem with hzero | hmem
    · exact .inl hzero
    · obtain ⟨h, hh, hw⟩ := List.mem_map.mp hmem
      obtain ⟨hh, ha⟩ := List.mem_filter.mp hh
      exact .inr ⟨h, hh, by simpa using ha, hw.symm⟩
  · exact List.mem_cons_of_mem _ (List.mem_map_of_mem (List.mem_filter.mpr ⟨hh, by simpa using ha⟩))

/-! ### The pool after a slice boundary -/

theorem sameTest_sliceBoundaryEvent (s : State) : SameTest (beforeExpiry s) (sliceBoundaryEvent s) :=
  (sameTest_reevaluatePool .boundary _).trans (sameTest_judgeHead _)

/-- The pool after a slice boundary is the aged pool judged, and behind it the head if it is taken (R85, R86, R75). -/
theorem sliceBoundaryEvent_pool (s : State) :
    ∃ taken, (sliceBoundaryEvent s).pool =
      (judgePool (beforeExpiry s) .boundary [] (s.pool.map ageEntry)).1 ++ taken := by
  have hjudged := reevaluatePool_pool (beforeExpiry s) .boundary
  rw [beforeExpiry_pool] at hjudged
  rw [← hjudged]
  rcases (headJudgment (reevaluatePool .boundary (beforeExpiry s))).pool with hsame | ⟨-, i, rec, -, -, -, hplaced⟩
  · exact ⟨[], hsame.trans (List.append_nil _).symm⟩
  · exact ⟨[⟨i, rec⟩], hplaced⟩

/-- Every record has its place in the judged pool (R75). -/
theorem lt_length_judgePool {o : Occasion} {older : List HeldRecord} {es : List PoolEntry} {k : Nat} {e : PoolEntry}
    (u : State) (hk : es[k]? = some e) : k < (judgePool u o older es).1.length :=
  (List.getElem?_eq_some_iff.mp (judgePool_at u o older hk)).1

/-- Place by place, the pool after a slice boundary is the aged pool judged (R85, R86). -/
theorem sliceBoundaryEvent_pool_at {k : Nat} {e : PoolEntry} (hk : s.pool[k]? = some e) :
    (sliceBoundaryEvent s).pool[k]? =
        (judgePool (beforeExpiry s) .boundary [] (s.pool.map ageEntry)).1[k]? ∧
      (sliceBoundaryEvent s).pool[k]? = some (judgedEntry (beforeExpiry s) .boundary
        (heldRecords ((sliceBoundaryEvent s).pool.take k)) (ageEntry e)) := by
  have hk' : (s.pool.map ageEntry)[k]? = some (ageEntry e) := by rw [List.getElem?_map, hk]; rfl
  have hlt := lt_length_judgePool (o := .boundary) (older := []) (beforeExpiry s) hk'
  obtain ⟨taken, hpool⟩ := sliceBoundaryEvent_pool s
  have hsame : (sliceBoundaryEvent s).pool[k]? =
      (judgePool (beforeExpiry s) .boundary [] (s.pool.map ageEntry)).1[k]? := by
    rw [hpool, List.getElem?_append_left hlt]
  refine ⟨hsame, ?_⟩
  rw [hsame, hpool, List.take_append_of_le_length hlt.le]
  exact judgePool_at (beforeExpiry s) .boundary [] hk'

theorem SameTest.expires (h : SameTest s t) (g : HeldRecord) (b : Blocker) : expires t g b = expires s g b := by
  unfold Machine.expires
  rw [h.liveParams]

/-- What a slice boundary makes of a HELD record, by the blocker that the test finds after it (R83, R85, R86). -/
theorem sliceBoundaryEvent_held_at {k : Nat} {i : SlotIndex} {h : HeldRecord} (hk : s.pool[k]? = some ⟨i, .held h⟩)
    {b : Blocker} (hb : b = admissionTest (sliceBoundaryEvent s) h.account h.exempt h.req
      (heldRecords ((sliceBoundaryEvent s).pool.take k))) :
    (sliceBoundaryEvent s).pool[k]? = some
      (if creditRefused (sliceBoundaryEvent s) (ageRecord h) b = true
        then ⟨i, .refusing (refusingOf (ageRecord h) .credit)⟩
        else if expires (sliceBoundaryEvent s) (ageRecord h) b = true
        then ⟨i, .refusing (refusingOf (ageRecord h) .expired)⟩
        else ⟨i, .held { ageRecord h with blocker := b }⟩) := by
  have same := sameTest_sliceBoundaryEvent s
  rw [(sliceBoundaryEvent_pool_at hk).2, same.creditRefused, same.expires]
  rw [same.admissionTest] at hb
  rw [ageEntry_held]
  unfold judgedEntry
  dsimp only
  rw [judge_boundary (h := ageRecord h) hb.symm]
  cases creditRefused (beforeExpiry s) (ageRecord h) b with
  | true => rfl
  | false => cases expires (beforeExpiry s) (ageRecord h) b <;> rfl

/-- A HELD record after a slice boundary is one of before, aged, or the head just taken (R85, R67). -/
theorem held_after_sliceBoundary {i : SlotIndex} {h' : HeldRecord}
    (hm : ⟨i, .held h'⟩ ∈ (sliceBoundaryEvent s).pool) :
    (∃ h : HeldRecord, (⟨i, .held h⟩ : PoolEntry) ∈ s.pool ∧ heldFields h' = heldFields (ageRecord h)) ∨
      ∃ hd : Head, s.hostPort.head = some hd ∧ (sliceBoundaryEvent s).hostPort.head = none ∧ h'.req = hd.req ∧
        h'.wait = 0 ∧ h'.exempt = false := by
  have hold : ⟨i, .held h'⟩ ∈ (reevaluatePool .boundary (beforeExpiry s)).pool →
      ∃ h : HeldRecord, (⟨i, .held h⟩ : PoolEntry) ∈ s.pool ∧ heldFields h' = heldFields (ageRecord h) := by
    intro hm
    rw [reevaluatePool_pool, beforeExpiry_pool] at hm
    obtain ⟨e, he, ahead, hjudged⟩ := mem_judgePool hm
    obtain ⟨g, rfl, hfields⟩ := held_of_judgedEntry hjudged.symm
    obtain ⟨e, hes, haged⟩ := List.mem_map.mp he
    obtain ⟨h, rfl, rfl⟩ := held_of_ageEntry haged
    exact ⟨h, hes, hfields⟩
  rcases (headJudgment (reevaluatePool .boundary (beforeExpiry s))).pool with
    hsame | ⟨hd, j, rec, hhead, hgone, hrec, hplaced⟩
  · exact .inl (hold (hsame ▸ hm))
  · rw [show (sliceBoundaryEvent s).pool = _ from hplaced, List.mem_append, List.mem_singleton] at hm
    rcases hm with hm | hm
    · exact .inl (hold hm)
    · obtain ⟨rfl, rfl⟩ := PoolEntry.mk.inj hm
      rw [reevaluatePool_hostPort, beforeExpiry_hostPort] at hhead
      cases hrec with
      | held a b _ => exact .inr ⟨hd, hhead, hgone, rfl, rfl, rfl⟩

/-- A record EXPIRED after a slice boundary was so before it, or has met the conditions of expiry at it (R86). -/
theorem expired_after_sliceBoundary {i : SlotIndex} {r : RefusingRecord}
    (hm : ⟨i, .refusing r⟩ ∈ (sliceBoundaryEvent s).pool) (hr : r.cause = .expired) :
    ⟨i, .refusing r⟩ ∈ s.pool ∨ ∃ (h : HeldRecord) (b : Blocker), (⟨i, .held h⟩ : PoolEntry) ∈ s.pool ∧
      r = refusingOf h .expired ∧ expires (sliceBoundaryEvent s) (ageRecord h) b = true := by
  have hold : ⟨i, .refusing r⟩ ∈ (reevaluatePool .boundary (beforeExpiry s)).pool →
      ⟨i, .refusing r⟩ ∈ s.pool ∨ ∃ (h : HeldRecord) (b : Blocker), (⟨i, .held h⟩ : PoolEntry) ∈ s.pool ∧
        r = refusingOf h .expired ∧ expires (sliceBoundaryEvent s) (ageRecord h) b = true := by
    intro hm
    rw [reevaluatePool_pool, beforeExpiry_pool] at hm
    obtain ⟨e, he, ahead, hjudged⟩ := mem_judgePool hm
    obtain ⟨e, hes, rfl⟩ := List.mem_map.mp he
    rcases refusing_of_judgedEntry hjudged.symm with hsame | ⟨g, c, haged, rfl, hj⟩
    · exact .inl (refusing_of_ageEntry hsame ▸ hes)
    · obtain ⟨h, rfl, rfl⟩ := held_of_ageEntry haged
      obtain rfl : c = .expired := hr
      exact .inr ⟨h, _, hes, rfl, ((sameTest_sliceBoundaryEvent s).expires ..).trans (expires_of_judge hj)⟩
  rcases (headJudgment (reevaluatePool .boundary (beforeExpiry s))).pool with
    hsame | ⟨hd, j, rec, -, -, hrec, hplaced⟩
  · exact hold (hsame ▸ hm)
  · rw [show (sliceBoundaryEvent s).pool = _ from hplaced, List.mem_append, List.mem_singleton] at hm
    rcases hm with hm | hm
    · exact hold hm
    · obtain ⟨rfl, rfl⟩ := PoolEntry.mk.inj hm
      cases hrec with
      | refusing c a hdisp =>
        obtain rfl : c = .expired := hr
        simpa using cause_of_refuse hdisp

/-! ### Peak wait -/

/-- Refusals leave the peak wait (R16, R82). -/
theorem foldl_recordRefusal_peakWait (rs : List (HeldRecord × Cause)) (s : State) (a : AccountIndex) :
    (accountOf (rs.foldl recordRefusal s) a).counters.peakWait = (accountOf s a).counters.peakWait := by
  induction rs generalizing s with
  | nil => rfl
  | cons r rs ih =>
    obtain ⟨h, c⟩ := r
    rw [List.foldl_cons, ih, accountOf_recordRefusal]
    split
    · cases c <;> rfl
    · rfl

theorem reevaluatePool_peakWait (o : Occasion) (s : State) (a : AccountIndex) :
    (accountOf (reevaluatePool o s) a).counters.peakWait = (accountOf s a).counters.peakWait := by
  unfold reevaluatePool
  exact foldl_recordRefusal_peakWait _ _ a

/-- The judgment of the head leaves the peak wait (R16, R67, R68). -/
theorem HeadJudgment.peakWait (hj : HeadJudgment s t) (a : AccountIndex) :
    (accountOf t a).counters.peakWait = (accountOf s a).counters.peakWait := by
  cases hj with
  | waits => rfl
  | tagWait h => rw [accountOf_congr (enterTagWait_accounts s h)]
  | slotWait h => rw [accountOf_congr (enterSlotWait_accounts s h)]
  | held => rw [accountOf_takeHeld]; split <;> rfl
  | refusing h c =>
    rw [accountOf_takeRefusing]
    split
    · cases c <;> rfl
    · rfl

/-- Peak wait follows the greatest wait of the aged records (R16, R85). -/
theorem sliceBoundaryEvent_peakWait (s : State) (a : AccountIndex) :
    (accountOf (sliceBoundaryEvent s) a).counters.peakWait =
      max (accountOf s a).counters.peakWait (greatestWait (s.pool.map ageEntry) a) := by
  unfold sliceBoundaryEvent
  rw [(headJudgment _).peakWait, reevaluatePool_peakWait, accountOf_beforeExpiry]

/-- Settles O11: the boundary judges the aged pool place by place, and then the head. -/
theorem sliceBoundaryAgesAndExpires : Obligations.SliceBoundaryAgesAndExpires := by
  intro s t hticks hexec
  obtain rfl := Host.Outcome.next.inj ((exec_sliceBoundary hticks).symm.trans hexec)
  refine ⟨fun k i h hk => ?_, fun k i r hk => ?_, fun i h' hm => ?_, fun i r hm hr => ?_, fun h hh => ?_, fun a => ?_⟩
  · intro p wait blocker refused forCredit forWait
    have hat := sliceBoundaryEvent_held_at hk (b := blocker) rfl
    have hcredit : creditRefused (sliceBoundaryEvent s) (ageRecord h) blocker = true ↔ forCredit := creditRefused_iff ..
    have hwait : expires (sliceBoundaryEvent s) (ageRecord h) blocker = true ↔ forWait := expires_iff ..
    refine ⟨fun hc => ?_, fun hc hw => ?_, fun hc hw => ?_⟩
    · rw [if_pos (hcredit.mpr hc)] at hat; exact hat
    · rw [if_neg (mt hcredit.mp hc), if_pos (hwait.mpr hw)] at hat; exact hat
    · rw [if_neg (mt hcredit.mp hc), if_neg (mt hwait.mp hw)] at hat; exact hat
  · exact (sliceBoundaryEvent_pool_at hk).2
  · rcases held_after_sliceBoundary hm with ⟨h, hh, hfields⟩ | hhead
    · simp only [heldFields, Prod.mk.injEq] at hfields
      obtain ⟨hreq, haccount, hwait, hexempt⟩ := hfields
      exact .inl ⟨h, hh, hreq, haccount, hexempt, hwait⟩
    · exact .inr hhead
  · rcases expired_after_sliceBoundary hm hr with hold | ⟨h, b, hh, rfl, he⟩
    · exact .inl hold
    · obtain ⟨hexempt, hmax, hreached, -⟩ := (expires_iff ..).mp he
      exact .inr ⟨h, hh, rfl, hexempt, hmax, hreached⟩
  · have hle := (greatestWait_spec (s.pool.map ageEntry) h.account).2 (ageRecord h)
      (by rw [heldRecords_map_ageEntry]; exact List.mem_map_of_mem hh) rfl
    rw [sliceBoundaryEvent_peakWait]
    exact hle.trans (Nat.le_max_right _ _)
  · rw [sliceBoundaryEvent_peakWait]
    rcases (greatestWait_spec (s.pool.map ageEntry) a).1 with hzero | ⟨g, hg, ha, hw⟩
    · exact .inl (by rw [hzero, Nat.max_zero])
    · rw [heldRecords_map_ageEntry] at hg
      obtain ⟨h, hh, rfl⟩ := List.mem_map.mp hg
      rw [hw]
      rcases Nat.le_total (ageRecord h).wait (accountOf s a).counters.peakWait with hle | hle
      · exact .inl (Nat.max_eq_left hle)
      · exact .inr ⟨h, hh, ha, Nat.max_eq_right hle⟩

/-! ### The row EXPIRY -/

/-- EXPIRY is the next slice boundary where some record expires at it (R86, log 1). -/
theorem exec_expiry (h : TicksCount s) :
    exec .expiry s = .next (if expiryDue s then sliceBoundaryEvent s else s) :=
  congrArg Host.Outcome.next (atTick_of_ticksCount h fun t => if expiryDue t then sliceBoundaryEvent t else t)

/-- Some record turns from HELD to REFUSING with cause EXPIRED in its place of the pool (R86). -/
def SomeExpires (s t : State) : Prop :=
  ∃ (k : Nat) (i : SlotIndex) (h : HeldRecord) (r : RefusingRecord),
    s.pool[k]? = some ⟨i, .held h⟩ ∧ t.pool[k]? = some ⟨i, .refusing r⟩ ∧ r.cause = .expired

theorem refusalOf_eq_some {change : PoolEntry × PoolEntry} {h : HeldRecord} {c : Cause}
    (hc : refusalOf change = some (h, c)) :
    ∃ i j r, change = (⟨i, .held h⟩, ⟨j, .refusing r⟩) ∧ r.cause = c := by
  obtain ⟨⟨i, g | q⟩, ⟨j, g' | r⟩⟩ := change
  · simp [refusalOf] at hc
  · simp only [refusalOf, Option.some.injEq, Prod.mk.injEq] at hc
    obtain ⟨rfl, rfl⟩ := hc
    exact ⟨i, j, r, rfl, rfl⟩
  · simp [refusalOf] at hc
  · simp [refusalOf] at hc

/-- A record expires at the next slice boundary exactly where the pool shows it (R86). -/
theorem expiryDue_iff (s : State) : expiryDue s = true ↔ SomeExpires s (sliceBoundaryEvent s) := by
  have hdue : expiryDue s = true ↔ ∃ h, (h, Cause.expired) ∈
      ((s.pool.map ageEntry).zip (judgePool (beforeExpiry s) .boundary [] (s.pool.map ageEntry)).1).filterMap
        refusalOf := by
    unfold expiryDue
    dsimp only
    rw [judgePool_refusals, beforeExpiry_pool, List.any_eq_true]
    refine ⟨fun ⟨⟨h, c⟩, hm, hc⟩ => ⟨h, ?_⟩, fun ⟨h, hm⟩ => ⟨(h, .expired), hm, rfl⟩⟩
    obtain rfl : c = .expired := by simpa using hc
    exact hm
  rw [hdue]
  constructor
  · rintro ⟨g, hm⟩
    obtain ⟨change, hchange, hrefusal⟩ := List.mem_filterMap.mp hm
    obtain ⟨i, j, r, rfl, hr⟩ := refusalOf_eq_some hrefusal
    obtain ⟨k, hk⟩ := List.mem_iff_getElem?.mp hchange
    obtain ⟨haged, hjudged⟩ := List.getElem?_zip_eq_some.mp hk
    rw [List.getElem?_map, Option.map_eq_some_iff] at haged
    obtain ⟨e, he, haged⟩ := haged
    obtain ⟨h, rfl, rfl⟩ := held_of_ageEntry haged
    obtain ⟨hsame, hat⟩ := sliceBoundaryEvent_pool_at he
    rw [← hsame] at hjudged
    have hslot := congrArg PoolEntry.slot (Option.some.inj (hjudged.symm.trans hat))
    rw [judgedEntry_slot] at hslot
    obtain rfl : j = i := hslot
    exact ⟨k, j, h, r, he, hjudged, hr⟩
  · rintro ⟨k, i, h, r, he, ht, hr⟩
    have haged : (s.pool.map ageEntry)[k]? = some ⟨i, .held (ageRecord h)⟩ := by rw [List.getElem?_map, he]; rfl
    rw [(sliceBoundaryEvent_pool_at he).1] at ht
    have hplace := List.getElem?_zip_eq_some 
      (z := ((⟨i, .held (ageRecord h)⟩, ⟨i, .refusing r⟩) : PoolEntry × PoolEntry)).mpr ⟨haged, ht⟩
    refine ⟨ageRecord h, List.mem_filterMap.mpr ⟨_, List.mem_iff_getElem?.mpr ⟨k, hplace⟩, ?_⟩⟩
    rw [← hr]
    rfl

/-- With no HELD record none expires (R86). -/
theorem not_someExpires_of_no_held (hn : heldRecords s.pool = []) : ¬SomeExpires s t := by
  rintro ⟨k, i, h, r, he, -, -⟩
  have hm : h ∈ heldRecords s.pool := mem_heldRecords.mpr ⟨i, List.mem_iff_getElem?.mpr ⟨k, he⟩⟩
  simp [hn] at hm

/-! ### The expiry of a record alone in the pool -/

/-- A refusal reads no pool (R82). -/
theorem accountOf_recordRefusal_withPool (u : State) (pool : List PoolEntry) (r : HeldRecord × Cause)
    (a : AccountIndex) : accountOf (recordRefusal { u with pool := pool } r) a =
      if r.1.account = a then countRefusal r.2 (countUnhold (accountOf u a)) else accountOf u a :=
  accountOf_recordRefusal { u with pool := pool } r a

/-- The balance of an account after the next boundary's grant, no publication coming with it (R42, R9). -/
def grantedBalance (s : State) (a : AccountIndex) : Nat :=
  min ((accountOf s a).balance + grantAmount (liveParams s a) (s.time.slice + 1)) (liveParams s a).ceiling

/-- The one HELD record of the pool, of a restrained HOLD account, whose wait ends at the next slice boundary, with no head behind
it and no publication at that boundary (R86). After the grant the balance falls short of the record's cost (R64). -/
structure LastWait (s : State) (i : SlotIndex) (h : HeldRecord) : Prop where
  pool : s.pool = [⟨i, .held h⟩]
  head : s.hostPort.head = none
  slice : s.time.slice + 1 < 32
  active : regulationActive s = true
  mode : (liveParams s h.account).mode = .hold
  cap : (liveParams s h.account).cap = 0
  exempt : h.exempt = false
  limited : (liveParams s h.account).maxWait ≠ 0
  reached : (liveParams s h.account).maxWait ≤ min (h.wait + 1) 255
  short : grantedBalance s h.account < cost (liveParams s h.account) h.req

section
variable {i : SlotIndex} {h : HeldRecord}

theorem LastWait.advanceSlice (hw : LastWait s i h) : advanceSlice s.time =
    { cycle := 0, tick := 0, slice := s.time.slice + 1, period := s.time.period } := by
  have hmod : (s.time.slice + 1) % Config.slicesPerPeriod = s.time.slice + 1 := Nat.mod_eq_of_lt hw.slice
  unfold Machine.advanceSlice
  rw [hmod]
  rfl

theorem LastWait.not_periodEnd (hw : LastWait s i h) : atPeriodEnd s = false := by
  unfold atPeriodEnd
  rw [hw.advanceSlice]
  rfl

theorem LastWait.store (hw : LastWait s i h) : (beforeExpiry s).store = s.store := by
  simp [beforeExpiry_store, hw.not_periodEnd]

theorem LastWait.liveParams (hw : LastWait s i h) (a : AccountIndex) :
    liveParams (beforeExpiry s) a = liveParams s a := liveParams_congr hw.store a

/-- Before its expiry is judged, every account has the grant, and the record's account the new peak wait (R9, R16). -/
theorem LastWait.accountOf (hw : LastWait s i h) (a : AccountIndex) :
    accountOf (beforeExpiry s) a = { accountOf s a with
      balance := grantedBalance s a
      counters := { (accountOf s a).counters with
        peakWait := max (accountOf s a).counters.peakWait (if h.account = a then min (h.wait + 1) 255 else 0) } } := by
  have hwait : greatestWait (s.pool.map ageEntry) a = if h.account = a then min (h.wait + 1) 255 else 0 := by
    rw [hw.pool]
    by_cases ha : h.account = a
    · simp [greatestWait, ageEntry_held, ageRecord, ha, satAdd, Config.byteMax]
    · simp [greatestWait, ageEntry_held, ageRecord, ha]
  rw [accountOf_beforeExpiry, hw.liveParams, hw.advanceSlice, hwait]
  rfl

/-- Short of credit after the grant, the record has the blocker CREDIT (R64). -/
theorem LastWait.blocker (hw : LastWait s i h) :
    admissionTest (beforeExpiry s) h.account h.exempt h.req [] = .credit := by
  have hactive : regulationActive (beforeExpiry s) = true :=
    (regulationActive_congr (beforeExpiry_reg s)).trans hw.active
  have hcap : capApplies (beforeExpiry s) h.account h.exempt = false := by
    simp [capApplies, hw.liveParams, hw.cap]
  have hcredit : creditApplies (beforeExpiry s) h.account h.exempt h.req = true := by
    refine (creditApplies_iff ..).mpr ⟨hw.exempt, (restrained_iff ..).mpr ⟨hactive, .inl ?_⟩, ?_⟩
    · rw [hw.liveParams]; exact hw.mode
    · rw [hw.liveParams, hw.accountOf]; exact hw.short
  unfold admissionTest
  rw [hcap, hcredit]
  rfl

/-- The record expires, in its slot (R86). -/
theorem LastWait.judged (hw : LastWait s i h) :
    judgePool (beforeExpiry s) .boundary [] (beforeExpiry s).pool =
      ([⟨i, .refusing (refusingOf (ageRecord h) .expired)⟩], [(ageRecord h, .expired)]) := by
  have hnot : creditRefused (beforeExpiry s) (ageRecord h) .credit = false := by
    have hmode : (Machine.liveParams (beforeExpiry s) (ageRecord h).account).mode = .hold := by
      rw [hw.liveParams]; exact hw.mode
    simp [creditRefused, hmode]
  have hexpires : expires (beforeExpiry s) (ageRecord h) .credit = true := by
    refine (expires_iff ..).mpr ⟨hw.exempt, ?_, ?_, by decide⟩
    · rw [hw.liveParams]; exact hw.limited
    · rw [hw.liveParams]; exact hw.reached
  have hjudge : judge (beforeExpiry s) .boundary (ageRecord h) [] = .refuse .expired := by
    rw [judge_boundary (h := ageRecord h) hw.blocker, hnot, hexpires]
    rfl
  rw [beforeExpiry_pool, hw.pool, List.map_singleton, ageEntry_held, judgePool_cons_refuse hjudge]
  rfl

/-- The boundary is its grant and ageing, and the one refusal (R86, R82). -/
theorem LastWait.event (hw : LastWait s i h) :
    sliceBoundaryEvent s = recordRefusal
      { beforeExpiry s with pool := [⟨i, .refusing (refusingOf (ageRecord h) .expired)⟩] } (ageRecord h, .expired) := by
  have hhead : (reevaluatePool .boundary (beforeExpiry s)).hostPort.head = none := by simpa using hw.head
  unfold sliceBoundaryEvent
  rw [judgeHead_of_no_head hhead]
  unfold reevaluatePool
  rw [hw.judged]
  rfl

theorem LastWait.someExpires (hw : LastWait s i h) : SomeExpires s (sliceBoundaryEvent s) := by
  refine ⟨0, i, h, refusingOf (ageRecord h) .expired, by rw [hw.pool]; rfl, ?_, rfl⟩
  rw [hw.event, recordRefusal_pool]
  rfl

/-- Every account has the grant; the record's account counts the expiry and one HELD record less (R86, R82). -/
theorem LastWait.accountOf_event (hw : LastWait s i h) (a : AccountIndex) :
    Machine.accountOf (sliceBoundaryEvent s) a =
      if h.account = a
      then { Machine.accountOf s a with
        balance := grantedBalance s a
        held := (Machine.accountOf s a).held - 1
        counters := { (Machine.accountOf s a).counters with
          expiries := min ((Machine.accountOf s a).counters.expiries + 1) 4294967295
          peakWait := max (Machine.accountOf s a).counters.peakWait (min (h.wait + 1) 255) } }
      else { Machine.accountOf s a with balance := grantedBalance s a } := by
  have hrefused := accountOf_recordRefusal_withPool (beforeExpiry s)
    [⟨i, .refusing (refusingOf (ageRecord h) .expired)⟩] (ageRecord h, .expired) a
  change _ = if h.account = a then _ else _ at hrefused
  rw [hw.event, hrefused, hw.accountOf]
  by_cases ha : h.account = a
  · rw [if_pos ha, if_pos ha, if_pos ha]
    rfl
  · rw [if_neg ha, if_neg ha, if_neg ha, Nat.max_zero]

theorem LastWait.alert (hw : LastWait s i h) :
    (sliceBoundaryEvent s).alert = { s.alert with causes := s.alert.causes ||| 0x01 } := by
  rw [hw.event, recordRefusal_alert]
  simp [beforeExpiry_alert, hw.not_periodEnd]

end

/-- Settles O12: the record alone in the pool is the one refusal of the boundary; for every pool the row is the boundary where the
pool shows an expiry. -/
theorem expiryRefusesTheWaitingRecord : Obligations.ExpiryRefusesTheWaitingRecord := by
  intro s hticks
  have hexec := exec_expiry hticks
  refine ⟨fun i h => ?_, fun t ht => ?_, fun hn => ?_⟩
  · intro p slice balance hpool hhead hslice hactive hmode hcap hexempt hlimited hreached hshort
    have hw : LastWait s i h := ⟨hpool, hhead, hslice, hactive, hmode, hcap, hexempt, hlimited, hreached, hshort⟩
    rw [hexec, if_pos ((expiryDue_iff s).mpr hw.someExpires)]
    refine ⟨_, rfl, ?_, ?_, fun b hb => ?_, ?_, ?_, ?_⟩
    · rw [hw.event, recordRefusal_pool]; rfl
    · rw [hw.accountOf_event, if_pos rfl]; rfl
    · rw [hw.accountOf_event, if_neg hb.symm]; rfl
    · rw [hw.event, recordRefusal_capture, beforeExpiry_time, hw.advanceSlice, beforeExpiry_capture]; rfl
    · rw [hw.alert]
    · apply State.eq_of_fields
      case h6 => rw [sliceBoundaryEvent_time, hw.advanceSlice]
      case h10 => rw [sliceBoundaryEvent_store, hw.store]
      case h12 => rw [hw.alert]
      all_goals simp [hw.event]
  · obtain rfl := Host.Outcome.next.inj ((exec_sliceBoundary hticks).symm.trans ht)
    intro someExpires
    rw [hexec]
    exact ⟨fun h => by rw [if_pos ((expiryDue_iff s).mpr h)], fun h => by rw [if_neg (mt (expiryDue_iff s).mp h)]⟩
  · rw [hexec, if_neg (mt (expiryDue_iff s).mp (not_someExpires_of_no_held hn))]

end Sys2Proof.Machine

/-! SUPPORT. What every step makes of the requester IDs and tags held by pool and Outstanding Table: an event keeps them all and sends
nothing, or delivers the response of one, or is a power-on reset (R114). -/

namespace Sys2Proof.Machine

open Sys2Proof.Safety

-- One declaration at a time: elaborated side by side, the text outgrows the memory of the check.
set_option Elab.async false

variable {s t u : State}

/-! ### Changes that keep every pair and send nothing -/

/-- Every pair held stays held, and no response is sent to the host (R114). -/
structure PairsKept (s t : State) : Prop where
  pairs : ∀ p ∈ heldPairs s, p ∈ heldPairs t := by exact fun _ hp => hp
  sent : t.hostPort.sent = s.hostPort.sent := by rfl

theorem PairsKept.refl (s : State) : PairsKept s s := {}

theorem PairsKept.trans (h : PairsKept s t) (h' : PairsKept t u) : PairsKept s u where
  pairs := fun p hp => h'.pairs p (h.pairs p hp)
  sent := h'.sent.trans h.sent

/-- A pair held is that of a record of the pool or of an outstanding entry (R56). -/
theorem mem_heldPairs {p : RequesterId × Tag} : p ∈ heldPairs s ↔
    (∃ e ∈ s.pool, recordPair e.record = p) ∨ ∃ e ∈ s.outstanding, (e.id, e.tag) = p := by
  simp only [heldPairs, List.mem_append, List.mem_map]

/-- What leaves the pairs of the pool in their places and the Outstanding Table as it is keeps every pair. -/
theorem pairsKept_of_eq (hp : (t.pool.map fun e => recordPair e.record) = s.pool.map fun e => recordPair e.record)
    (ho : t.outstanding = s.outstanding) (hs : t.hostPort.sent = s.hostPort.sent) : PairsKept s t where
  pairs := fun p hm => by unfold heldPairs at *; rwa [hp, ho]
  sent := hs

/-- What adds to pool or Outstanding Table keeps every pair. -/
theorem pairsKept_of_subset (hp : s.pool ⊆ t.pool) (ho : s.outstanding ⊆ t.outstanding)
    (hs : t.hostPort.sent = s.hostPort.sent) : PairsKept s t where
  pairs := fun p hm => by
    rw [mem_heldPairs] at *
    exact hm.imp (fun ⟨e, he, hpair⟩ => ⟨e, hp he, hpair⟩) fun ⟨e, he, hpair⟩ => ⟨e, ho he, hpair⟩
  sent := hs

/-! ### Head and pool -/

theorem pairsKept_takeHeld (q : Request) (a : AccountIndex) (b : Blocker) (i : SlotIndex) (s : State) :
    PairsKept s (takeHeld q a b i s) :=
  pairsKept_of_subset (by simp [takeHeld_pool]) (by simp) (by simp)

theorem pairsKept_takeRefusing (q : Request) (c : Cause) (a : Option AccountIndex) (i : SlotIndex) (s : State) :
    PairsKept s (takeRefusing q c a i s) :=
  pairsKept_of_subset (by simp [takeRefusing_pool]) (by simp) (by simp)

/-- The judgment of the head takes the head's pair at most (R67, R68). -/
theorem pairsKept_judgeHead (s : State) : PairsKept s (judgeHead s) := by
  refine pairsKept_of_subset ?_ (by simp) (judgeHead_sent s)
  rcases (headJudgment s).pool with hsame | ⟨h, i, rec, -, -, -, hplaced⟩
  · exact hsame ▸ List.Subset.refl _
  · exact hplaced ▸ List.subset_append_left _ _

/-- A refused record keeps its pair until its response is delivered (R77, R82). -/
theorem pairsKept_reevaluatePool (o : Occasion) (s : State) : PairsKept s (reevaluatePool o s) :=
  pairsKept_of_eq (by rw [reevaluatePool_pool, judgePool_pairs]) (by simp) (by simp)

theorem pairsKept_judged (o : Occasion) (s : State) : PairsKept s (judgeHead (reevaluatePool o s)) :=
  (pairsKept_reevaluatePool o s).trans (pairsKept_judgeHead _)

theorem pairsKept_settle (s : State) : PairsKept s (settle s) := pairsKept_judged .change s

theorem pairsKept_releaseRecords (x : Option AccountIndex) (s : State) : PairsKept s (releaseRecords x s) := by
  refine pairsKept_of_eq ?_ (by simp) (by simp)
  change List.map _ (s.pool.map (releaseEntry x)) = _
  simp [releaseEntry_pair]

/-! ### The ports -/

theorem pairsKept_offerHead (r : Request) (s : State) : PairsKept s (offerHead r s) := by
  unfold offerHead
  split
  · exact .refl s
  · dsimp only
    split
    · exact PairsKept.trans {} (pairsKept_judgeHead _)
    · exact {}

theorem pairsKept_takeHeldEvent (s : State) : PairsKept s (takeHeldEvent s) := by
  unfold takeHeldEvent
  split
  · split
    · exact .refl s
    · split
      case h_1 => exact pairsKept_takeHeld ..
      all_goals exact .refl s
  · exact .refl s

theorem pairsKept_takeRefusingEvent (s : State) : PairsKept s (takeRefusingEvent s) := by
  unfold takeRefusingEvent
  split
  · split
    · exact .refl s
    · split
      · exact .refl s
      · split
        case h_1 => exact pairsKept_takeRefusing ..
        all_goals exact .refl s
  · exact .refl s

/-- The pair of an issued request is held from the issue on by its outstanding entry (R96, R103). -/
theorem pairsKept_heldIssued {i : SlotIndex} {h : HeldRecord} (hd : SlotsDistinct s) (mem : ⟨i, .held h⟩ ∈ s.pool) :
    PairsKept s (heldIssued i h s) where
  pairs := fun _ => (heldPairs_heldIssued hd mem).mem_iff.mpr

theorem pairsKept_headIssued (q : Request) (a : AccountIndex) (s : State) : PairsKept s (headIssued q a s) :=
  pairsKept_of_subset (List.Subset.refl _) (List.subset_append_left _ _) rfl

theorem pairsKept_mPortReady (hd : SlotsDistinct s) : PairsKept s (mPortReady s) := by
  unfold mPortReady
  split
  · split
    next c hc =>
      cases c with
      | held i h =>
        have mem := held_of_mem_candidates (mem_of_pickFrom hc)
        exact (pairsKept_heldIssued hd mem).trans (pairsKept_settle _)
      | head q a => exact (pairsKept_headIssued q a s).trans (pairsKept_settle _)
    next => exact .refl s
  · exact .refl s

theorem pairsKept_matchResponse (s : State) : PairsKept s (matchResponse s) := by
  unfold matchResponse
  repeat' split
  all_goals exact {}

theorem pairsKept_offerResponse (r : MemoryResponse) (s : State) : PairsKept s (offerResponse r s) := by
  unfold offerResponse
  split
  · exact .refl s
  · dsimp only
    split
    · exact PairsKept.trans {} (pairsKept_matchResponse _)
    · exact {}

/-! ### Delivery -/

/-- A response with a pair that was held is sent to the host, and every other pair stays held (R112, R113, R114). -/
structure Delivers (s t : State) (resp : HostResponse) : Prop where
  sent : t.hostPort.sent = some resp
  held : (resp.id, resp.tag) ∈ heldPairs s
  others : ∀ p ∈ heldPairs s, p ≠ (resp.id, resp.tag) → p ∈ heldPairs t

theorem Delivers.trans_kept {resp : HostResponse} (h : Delivers s t resp) (h' : PairsKept t u) : Delivers s u resp where
  sent := h'.sent.trans h.sent
  held := h.held
  others := fun p hp hne => h'.pairs p (h.others p hp hne)

/-- A response that is matched carries the pair of an outstanding entry (R107). -/
theorem matchesOutstanding_iff {id : RequesterId} {tag : Tag} :
    matchesOutstanding s id tag = true ↔ ∃ e ∈ s.outstanding, (e.id, e.tag) = (id, tag) := by
  simp [matchesOutstanding]

/-- The entry that a memory response matches leaves the Outstanding Table, and no other (R112). -/
theorem delivers_responseTaken {r : MemoryResponse} (hm : matchesOutstanding s r.id r.tag = true) :
    Delivers s (responseTaken r s) (hostResponseOf r) where
  sent := by rw [responseTaken_hostPort]
  held := mem_heldPairs.mpr (.inr (matchesOutstanding_iff.mp hm))
  others := by
    intro p hp hne
    rw [mem_heldPairs] at *
    rw [responseTaken_pool, responseTaken_outstanding]
    refine hp.imp_right fun ⟨e, he, hpair⟩ => ⟨e, List.mem_filter.mpr ⟨he, ?_⟩, hpair⟩
    rw [Bool.not_eq_true', Bool.eq_false_iff, ne_eq, Bool.and_eq_true, beq_iff_eq, beq_iff_eq]
    exact fun ⟨hid, htag⟩ => hne (by rw [← hpair, hid, htag]; rfl)

/-- The REFUSING record whose refusal is sent leaves the pool, and no other (R97, R113). -/
theorem delivers_refusalSent {i : SlotIndex} {f : RefusingRecord} (hd : SlotsDistinct s)
    (hf : oldestRefusing s.pool = some (i, f)) :
    Delivers s (refusalSent i f s) { id := f.id, tag := f.tag, status := .refused f.cause, data := none } := by
  obtain ⟨front, back, hp, -⟩ := oldestRefusing_split hf
  have hrest : (refusalSent i f s).pool = front ++ back := removeSlot_of_split hd hp
  refine ⟨rfl, mem_heldPairs.mpr (.inl ⟨⟨i, .refusing f⟩, by rw [hp]; simp, rfl⟩), fun p hm hne => ?_⟩
  rw [mem_heldPairs] at *
  refine hm.imp_left fun ⟨e, he, hpair⟩ => ⟨e, ?_, hpair⟩
  have hother : e ≠ ⟨i, .refusing f⟩ := fun hc => hne (by rw [← hpair, hc]; rfl)
  rw [hp] at he
  rw [hrest]
  simpa [hother] using he

/-- An H-port ready event lapses, or delivers one response (R110, R111). -/
theorem hPortReady_delivers (hd : SlotsDistinct s) (hw : WaitingResponseMatched s) :
    hPortReady s = s ∨ ∃ resp, Delivers s (hPortReady s) resp := by
  unfold hPortReady
  split
  next hopen =>
    have response : ∀ {r}, s.memPort.resp = some r → Delivers s (deliverMemoryResponse r s) (hostResponseOf r) :=
      fun hr => (delivers_responseTaken (hw (running_of_portsOpen hopen) _ hr)).trans_kept (pairsKept_settle _)
    have refusal : ∀ {i f}, oldestRefusing s.pool = some (i, f) → ∃ resp, Delivers s (deliverRefusal i f s) resp :=
      fun hf => ⟨_, (delivers_refusalSent hd hf).trans_kept (pairsKept_judgeHead _)⟩
    split
    next => exact .inl rfl
    next hr _ => exact .inr ⟨_, response hr⟩
    next hf => exact .inr (refusal hf)
    next hr hf =>
      split
      · exact .inr ⟨_, response hr⟩
      · exact .inr (refusal hf)
  next => exact .inl rfl

/-! ### The grid -/

/-- A slice boundary ages, expires and refuses records in their places (R85, R86, R82). -/
theorem pairsKept_sliceBoundaryEvent (s : State) : PairsKept s (sliceBoundaryEvent s) :=
  PairsKept.trans (pairsKept_of_eq (by simp [ageEntry_pair]) (by simp) (by simp)) (pairsKept_judged .boundary (beforeExpiry s))

theorem pairsKept_tickEvent (s : State) : PairsKept s (tickEvent s) := by
  unfold tickEvent
  split
  · exact {}
  · exact pairsKept_sliceBoundaryEvent s

theorem pairsKept_gridCycle (s : State) : PairsKept s (gridCycle s) := by
  unfold gridCycle
  split
  · exact {}
  · exact PairsKept.trans {} (pairsKept_tickEvent _)

theorem pairsKept_atTick {bring : State → State}
    (hb : ∀ s, bring s = tickEvent s ∨ bring s = sliceBoundaryEvent s ∨ bring s = s) (s : State) :
    PairsKept s (atTick bring s) := by
  unfold atTick
  split
  · split
    · exact {}
    · rcases hb s with h | h | h
      · exact h ▸ pairsKept_tickEvent s
      · exact h ▸ pairsKept_sliceBoundaryEvent s
      · exact h.symm ▸ .refl s
  · exact .refl s

theorem pairsKept_restartEvent (s : State) : PairsKept s (restartEvent s) := by
  rw [restartEvent_eq]
  exact (pairsKept_of_eq (by simp) (by simp) (by simp)).trans (pairsKept_settle _)

/-! ### The Command Executor and the link -/

/-- A flush releases records or makes them REFUSING; no command removes a record or an entry (R89, R90). -/
theorem pairsKept_perform (c : Command) (p : List Byte) (s : State) : PairsKept s (perform c p s).1 := by
  cases c with
  | identify | readAccount | readMap | readGlobals | readHold => exact .refl s
  | writeAccount | writeMap | writeGlobals | copyLiveToStaged | cancelCommit | ackAlert | setAlertEnable | clearCapture =>
    exact {}
  | status | commit | readCapture | readCounters =>
    simp only [perform, performStatus, performCommit, performReadCapture, performReadCounters]
    split <;> exact {}
  | flush =>
    unfold perform performFlush
    dsimp only
    split
    · exact pairsKept_judged _ s
    · exact (pairsKept_releaseRecords _ s).trans (pairsKept_settle _)
  | setMode => exact PairsKept.trans {} (pairsKept_settle _)

theorem LinkWorks.pairsKept (h : LinkWorks s t) : PairsKept s t :=
  h.keeps (P := PairsKept s) (fun _ _ _ hu => hu.trans {}) (fun c p hu => hu.trans (pairsKept_perform c p _)) (.refl s)

theorem pairsKept_refclkCycle (s : State) : PairsKept s (refclkCycle s) := by
  unfold refclkCycle
  split
  · exact (linkWorks_linkCycle s).pairsKept.trans (pairsKept_gridCycle _)
  · exact .refl s

/-! ### Power and REFCLK -/

theorem pairsKept_refclkStopEvent (s : State) : PairsKept s (refclkStopEvent s) := by
  unfold refclkStopEvent
  dsimp only
  repeat' split
  all_goals exact {}

theorem pairsKept_refclkResumeEvent (s : State) : PairsKept s (refclkResumeEvent s) := by
  unfold refclkResumeEvent
  dsimp only
  repeat' split
  all_goals exact {}

theorem pairsKept_initialisationEvent (stn : BitVec 5) (rate : BitVec 2) (s : State) :
    PairsKept s (initialisationEvent stn rate s) := by
  unfold initialisationEvent
  split <;> exact {}

theorem pairsKept_initialisationCompleteEvent (high : Bool) (s : State) :
    PairsKept s (initialisationCompleteEvent high s) := by
  unfold initialisationCompleteEvent
  split
  · exact PairsKept.trans {} ((pairsKept_matchResponse _).trans (pairsKept_judgeHead _))
  · exact .refl s

/-! ### Every command, every step -/

/-- What a command makes of the pairs held (R114). -/
inductive Answers (c : Instr) (s t : State) : Prop
  | kept (h : PairsKept s t)
  | delivered (hc : c = .hPortReadyEvent) (resp : HostResponse) (h : Delivers s t resp)
  | reset (src : ResetSource) (hc : c = .powerOnReset (.asserts src)) (silent : t.hostPort.sent = none)

/-- A reset that begins forgets the pairs and sends nothing; any other change of its sources keeps them (R138). -/
theorem answers_powerOnReset (change : ResetChange) (s : State) :
    Answers (.powerOnReset change) s (powerOnResetEvent change s) := by
  unfold powerOnResetEvent
  split
  next src =>
    split
    · exact .kept {}
    · exact .reset src rfl rfl
  next => exact .kept {}

theorem exec_answers (c : Instr) (hd : SlotsDistinct s) (hw : WaitingResponseMatched s) :
    ∃ t, exec c s = .next t ∧ Answers c s t := by
  by_cases hrow : c ∈ tickRows
  · obtain ⟨bring, hexec, hb⟩ := exec_of_mem_tickRows hrow
    exact ⟨_, hexec s, .kept (pairsKept_atTick hb s)⟩
  have kept : ∀ {t}, exec c s = .next t → PairsKept s t → ∃ t, exec c s = .next t ∧ Answers c s t :=
    fun he h => ⟨_, he, .kept h⟩
  cases c with
  | tick | sliceBoundary | periodBoundary | expiry | publication => exact absurd (by decide) hrow
  | offer r => exact kept rfl (pairsKept_offerHead r s)
  | takeHeld => exact kept rfl (pairsKept_takeHeldEvent s)
  | takeRefusing => exact kept rfl (pairsKept_takeRefusingEvent s)
  | mPortReadyEvent => exact kept rfl (pairsKept_mPortReady hd)
  | memoryResponse r => exact kept rfl (pairsKept_offerResponse r s)
  | hPortReadyEvent =>
    rcases hPortReady_delivers hd hw with hlapse | ⟨resp, h⟩
    · exact kept rfl (hlapse.symm ▸ .refl s)
    · exact ⟨_, rfl, .delivered rfl resp h⟩
  | regulationRestart =>
    refine kept rfl ?_
    split
    · exact pairsKept_restartEvent s
    · exact .refl s
  | regenFall =>
    refine kept rfl ?_
    split
    · exact PairsKept.trans {} (pairsKept_settle _)
    · exact .refl s
  | powerOnReset change => exact ⟨_, rfl, answers_powerOnReset change s⟩
  | initialisation stn rate => exact kept rfl (pairsKept_initialisationEvent stn rate s)
  | initialisationComplete high => exact kept rfl (pairsKept_initialisationCompleteEvent high s)
  | refclkStop => exact kept rfl (pairsKept_refclkStopEvent s)
  | refclkResume => exact kept rfl (pairsKept_refclkResumeEvent s)
  | selectCharacter value => exact kept rfl (linkWorks_selectEvent value s).pairsKept
  | dataCharacter value => exact kept rfl (linkWorks_dataEvent value s).pairsKept
  | framingError => exact kept rfl (linkWorks_framingErrorEvent s).pairsKept
  | frameTimeout => exact kept rfl (linkWorks_frameTimeoutEvent s).pairsKept
  | linkBreak => exact kept rfl (linkWorks_breakEvent s).pairsKept
  | responseTurnaround => exact kept rfl (linkWorks_turnaroundEvent s).pairsKept
  | responseEnd => exact kept rfl (linkWorks_responseEndEvent s).pairsKept
  | endOfBreak => exact kept rfl (linkWorks_endOfBreakEvent s).pairsKept
  | unknownCommand | identify | statusKeep | statusClear | readAccount | writeAccount | readMap | writeMap
  | readGlobals | writeGlobals | copyLiveToStaged | commit | cancelCommit | readCountersKeep | readCountersClear
  | readHold | flushRelease | flushRefuse | readCapture | clearCapture | setMode | ackAlert | setAlertEnable =>
    exact kept rfl (linkWorks_receiveFrame _ _ s).pairsKept

/-- A step keeps every pair, or delivers the response of one, or is a power-on reset, which sends nothing (R114). -/
theorem step_answers (hd : SlotsDistinct s) (hw : WaitingResponseMatched s) (hstep : step s = .next t) :
    PairsKept s t ∨ (∃ rest resp, s.pending = .hPortReadyEvent :: rest ∧ Delivers s t resp) ∨
      ∃ src rest, s.pending = .powerOnReset (.asserts src) :: rest ∧ t.hostPort.sent = none := by
  cases hp : s.pending with
  | nil =>
    obtain rfl := Host.Outcome.next.inj ((step_idle hp).symm.trans hstep)
    exact .inl (pairsKept_refclkCycle s)
  | cons c rest =>
    obtain ⟨u, hu, h⟩ := exec_answers (s := { s with pending := rest }) c hd hw
    obtain rfl := Host.Outcome.next.inj (hu.symm.trans ((step_of_front hp).symm.trans hstep))
    cases h with
    | kept h => exact .inl (PairsKept.trans {} h)
    | delivered hc resp h => exact .inr (.inl ⟨rest, resp, by rw [hc], h.sent, h.held, h.others⟩)
    | reset src hc silent => exact .inr (.inr ⟨src, rest, by rw [hc], silent⟩)

/-- Settles O31: only the delivery of its response takes a pair from pool or table, and a power-on reset, which sends nothing. -/
theorem everyHeldPairIsAnsweredOrKept : Obligations.EveryHeldPairIsAnsweredOrKept := by
  intro s t hd hw hstep
  rcases step_answers hd hw hstep with h | ⟨rest, resp, hp, h⟩ | ⟨src, rest, hp, silent⟩
  · exact ⟨fun p hm => .inl (h.pairs p hm), fun resp hsent hnew => absurd (h.sent ▸ hsent) hnew⟩
  · refine ⟨fun p hm => ?_, fun resp' hsent _ => ?_⟩
    · by_cases hpair : p = (resp.id, resp.tag)
      · exact .inr (.inl ⟨rest, resp, hp, h.sent, hpair.symm⟩)
      · exact .inl (h.others p hm hpair)
    · obtain rfl := Option.some.inj (h.sent.symm.trans hsent)
      exact h.held
  · exact ⟨fun _ _ => .inr (.inr ⟨src, rest, hp⟩), fun _ hsent _ => by simp [silent] at hsent⟩

end Sys2Proof.Machine

/-! SUPPORT. The pick of the Issue Arbiter (R101, R102), the issue of the picked HELD record (R103, R96), and the memory responses from
their offer to their delivery (R107, R108, R111, R112). -/

namespace Sys2Proof.Machine

open Sys2Proof.Safety

variable {s : State}

/-! ### The pick -/

/-- The live priority of a candidate's account (R102). -/
def livePriority (s : State) (c : Candidate) : Nat := (liveParams s c.account).priority

/-- There is a pick if there is a candidate (R100, R102). -/
theorem pickFrom_eq_none_iff {cs : List Candidate} : pickFrom s cs = none ↔ cs = [] := by
  cases cs with
  | nil => simp [pickFrom]
  | cons c rest =>
    unfold pickFrom
    split
    · simp
    · split <;> simp

/-- The pick has a higher priority than those before it, and none after it has a higher one (R102). -/
theorem pickFrom_split {cs : List Candidate} {c : Candidate} (h : pickFrom s cs = some c) :
    ∃ front back, cs = front ++ c :: back ∧ (∀ d ∈ front, livePriority s d < livePriority s c) ∧
      ∀ d ∈ back, livePriority s d ≤ livePriority s c := by
  induction cs generalizing c with
  | nil => simp [pickFrom] at h
  | cons e rest ih =>
    unfold pickFrom at h
    split at h
    next hnone =>
      obtain rfl := Option.some.inj h
      exact ⟨[], rest, rfl, by simp, by simp [pickFrom_eq_none_iff.mp hnone]⟩
    next d hd =>
      obtain ⟨front, back, hrest, hfront, hback⟩ := ih hd
      split at h
      next hlt =>
        obtain rfl := Option.some.inj h
        exact ⟨e :: front, back, by rw [hrest]; rfl, List.forall_mem_cons.mpr ⟨hlt, hfront⟩, hback⟩
      next hge =>
        obtain rfl := Option.some.inj h
        have hle : livePriority s d ≤ livePriority s e := Nat.not_lt.mp hge
        refine ⟨[], rest, rfl, by simp, fun x hx => ?_⟩
        rw [hrest, List.mem_append, List.mem_cons] at hx
        rcases hx with hx | rfl | hx
        · exact (hfront x hx).le.trans hle
        · exact hle
        · exact (hback x hx).trans hle

/-- The candidate that an entry of the pool is: a HELD record without blocker (R81, R101). -/
def entryCandidate (e : PoolEntry) : Option Candidate :=
  match e.record with
  | .held h => if h.blocker = .none then some (.held e.slot h) else none
  | .refusing _ => none

theorem eligibleHeld_eq (s : State) : eligibleHeld s = s.pool.filterMap entryCandidate := rfl

theorem entryCandidate_eq_some_iff {e : PoolEntry} {c : Candidate} :
    entryCandidate e = some c ↔ ∃ h, e = ⟨e.slot, .held h⟩ ∧ h.blocker = .none ∧ c = .held e.slot h := by
  obtain ⟨i, h | r⟩ := e
  · simp [entryCandidate, eq_comm]
  · simp [entryCandidate]

/-- A HELD record without blocker is a candidate (R101). -/
theorem mem_entryCandidates {es : List PoolEntry} {h : HeldRecord} (hm : h ∈ heldRecords es) (hb : h.blocker = .none) :
    ∃ i, .held i h ∈ es.filterMap entryCandidate := by
  obtain ⟨i, hi⟩ := mem_heldRecords.mp hm
  exact ⟨i, List.mem_filterMap.mpr ⟨_, hi, entryCandidate_eq_some_iff.mpr ⟨h, rfl, hb, rfl⟩⟩⟩

/-- The head is a candidate if its disposition is ISSUE, and the only one that is no HELD record (R101). -/
theorem mem_headCandidate_iff {c : Candidate} : c ∈ headCandidate s ↔
    ∃ hd a, s.hostPort.head = some hd ∧ disposition s hd.req = .issue a ∧ c = .head hd.req a := by
  unfold headCandidate
  cases hh : s.hostPort.head with
  | none => simp
  | some h => cases hd : disposition s h.req <;> simp [hd]

theorem head_not_mem_eligibleHeld (r : Request) (a : AccountIndex) : .head r a ∉ eligibleHeld s := fun hm => by
  obtain ⟨e, -, he⟩ := List.mem_filterMap.mp (eligibleHeld_eq s ▸ hm)
  obtain ⟨_, -, -, hc⟩ := entryCandidate_eq_some_iff.mp he
  exact Candidate.noConfusion hc

/-- A candidate that is a head is the head offered, with disposition ISSUE (R101). -/
theorem head_of_mem_candidates {r : Request} {a : AccountIndex} (hm : .head r a ∈ candidates s) :
    ∃ hd, s.hostPort.head = some hd ∧ hd.req = r ∧ disposition s r = .issue a := by
  rcases List.mem_append.mp hm with hm | hm
  · exact absurd hm (head_not_mem_eligibleHeld r a)
  · obtain ⟨hd, x, hh, hissue, hc⟩ := mem_headCandidate_iff.mp hm
    obtain ⟨rfl, rfl⟩ := Candidate.head.inj hc
    exact ⟨hd, hh, rfl, hissue⟩

/-- A HELD record among the candidates parts the pool as it parts the candidates; the head comes last (R102). -/
theorem candidates_split_held {front back : List Candidate} {i : SlotIndex} {h : HeldRecord}
    (hc : candidates s = front ++ .held i h :: back) :
    ∃ older younger, s.pool = older ++ ⟨i, .held h⟩ :: younger ∧ h.blocker = .none ∧
      older.filterMap entryCandidate = front ∧ younger.filterMap entryCandidate ++ headCandidate s = back := by
  have hhead : .held i h ∉ headCandidate s := fun hm => by
    obtain ⟨_, _, -, -, hc⟩ := mem_headCandidate_iff.mp hm
    exact Candidate.noConfusion hc
  rcases List.append_eq_append_iff.mp hc with ⟨mid, -, hsplit⟩ | ⟨mid, hheld, hsplit⟩
  · exact absurd (by rw [hsplit]; simp) hhead
  · cases mid with
    | nil =>
      have hm : .held i h ∈ [] ++ headCandidate s := hsplit ▸ List.mem_cons_self
      exact absurd hm hhead
    | cons c mid =>
      obtain ⟨rfl, rfl⟩ := List.cons.inj hsplit
      rw [eligibleHeld_eq, List.filterMap_eq_append_iff] at hheld
      obtain ⟨older, rest, hpool, hfront, hrest⟩ := hheld
      obtain ⟨skipped, e, younger, rfl, hskipped, he, hyounger⟩ := List.filterMap_eq_cons_iff.mp hrest
      obtain ⟨g, hentry, hb, hc⟩ := entryCandidate_eq_some_iff.mp he
      obtain ⟨hslot, rfl⟩ := Candidate.held.inj hc
      refine ⟨older ++ skipped, younger, ?_, hb, ?_, by rw [hyounger]; rfl⟩
      · rw [hpool, List.append_assoc, hslot, ← hentry]
      · rw [List.filterMap_append, hfront, List.filterMap_eq_nil_iff.mpr hskipped, List.append_nil]

/-- Before the head come all the candidates of the pool (R102). -/
theorem candidates_split_head {front back : List Candidate} {r : Request} {a : AccountIndex}
    (hc : candidates s = front ++ .head r a :: back) : s.pool.filterMap entryCandidate ⊆ front := by
  rw [← eligibleHeld_eq]
  rcases List.append_eq_append_iff.mp hc with ⟨mid, hfront, -⟩ | ⟨mid, hsplit, hback⟩
  · exact hfront ▸ List.subset_append_left _ _
  · cases mid with
    | nil => exact fun c hm => by rwa [hsplit, List.append_nil] at hm
    | cons c mid =>
      obtain ⟨rfl, -⟩ := List.cons.inj hback
      exact absurd (by rw [hsplit]; simp) (head_not_mem_eligibleHeld r a)

/-- The pool offers no candidate where every HELD record has a blocker (R81, R101). -/
theorem eligibleHeld_eq_nil_iff : eligibleHeld s = [] ↔ ∀ g ∈ heldRecords s.pool, g.blocker ≠ .none := by
  rw [eligibleHeld_eq]
  refine ⟨fun hnone g hg hb => ?_, fun hblocked => List.eq_nil_iff_forall_not_mem.mpr fun c hm => ?_⟩
  · obtain ⟨j, hm⟩ := mem_entryCandidates hg hb
    simp [hnone] at hm
  · obtain ⟨e, he, hc⟩ := List.mem_filterMap.mp hm
    obtain ⟨h, hentry, hb, -⟩ := entryCandidate_eq_some_iff.mp hc
    exact hblocked h (mem_heldRecords.mpr ⟨_, hentry ▸ he⟩) hb

/-- The head is no candidate where it is not to be issued (R101). -/
theorem headCandidate_eq_nil_iff :
    headCandidate s = [] ↔ ∀ hd a, s.hostPort.head = some hd → disposition s hd.req ≠ .issue a := by
  refine ⟨fun hnone hd a hh hissue => ?_, fun hwaits => List.eq_nil_iff_forall_not_mem.mpr fun c hm => ?_⟩
  · have hm := mem_headCandidate_iff.mpr ⟨hd, a, hh, hissue, rfl⟩
    simp [hnone] at hm
  · obtain ⟨hd, a, hh, hissue, -⟩ := mem_headCandidate_iff.mp hm
    exact hwaits hd a hh hissue

/-- Settles O24: the pick parts the candidates, and the candidates are those of the pool in pool order and then the head. -/
theorem pickIsFirstOfTheHighestPriority : Obligations.PickIsFirstOfTheHighestPriority := by
  intro s
  refine ⟨fun i h hp => ?_, fun r a hp => ⟨head_of_mem_candidates (mem_of_pickFrom hp), fun g hg hb => ?_⟩, ?_⟩
  · obtain ⟨front, back, hc, hfront, hback⟩ := pickFrom_split hp
    obtain ⟨older, younger, hpool, hb, rfl, rfl⟩ := candidates_split_held hc
    refine ⟨older, younger, hpool, hb, fun g hg hgb => ?_, fun g hg hgb => ?_, fun hd a hh hissue => ?_⟩
    · obtain ⟨j, hm⟩ := mem_entryCandidates hg hgb
      exact hfront _ hm
    · obtain ⟨j, hm⟩ := mem_entryCandidates hg hgb
      exact hback _ (List.mem_append_left _ hm)
    · exact hback _ (List.mem_append_right _ (mem_headCandidate_iff.mpr ⟨hd, a, hh, hissue, rfl⟩))
  · obtain ⟨front, back, hc, hfront, -⟩ := pickFrom_split hp
    obtain ⟨j, hm⟩ := mem_entryCandidates hg hb
    exact hfront _ (candidates_split_head hc hm)
  · rw [pick, pickFrom_eq_none_iff, candidates, List.append_eq_nil_iff]
    exact and_congr eligibleHeld_eq_nil_iff headCandidate_eq_nil_iff

/-! ### The issue of a HELD record -/

/-- With a HELD record picked, the M-port ready event issues it and settles the pool (R96, R100, R103). -/
theorem exec_mPortReady_of_held {i : SlotIndex} {h : HeldRecord} (hr : Running s) (hroom : s.outstanding.length < 16)
    (hp : pick s = some (.held i h)) : exec .mPortReadyEvent s = .next (settle (heldIssued i h s)) := by
  have hready : mPortReady s = settle (heldIssued i h s) := by
    unfold mPortReady
    have hroom' : s.outstanding.length < Config.outstandingMax := hroom
    rw [portsOpen_of_running hr, hp, decide_eq_true hroom']
    rfl
  exact congrArg _ hready

/-- Removing the entry of a slot removes the slot (R74, R75). -/
theorem poolSlots_heldIssued (i : SlotIndex) (h : HeldRecord) (s : State) :
    poolSlots (heldIssued i h s) = (poolSlots s).filter fun j => j != i := by
  unfold poolSlots
  rw [List.filter_map]
  rfl

/-- Settles O26: the issue charges and counts the record's account, and settling the pool afterwards keeps that. -/
theorem mPortIssuesThePickedHeldRecord : Obligations.MPortIssuesThePickedHeldRecord := by
  intro i h s hr hroom hp price enforced
  have hother : ∀ b, b ≠ h.account → accountOf (heldIssued i h s) b = accountOf s b := fun b hb => by
    rw [accountOf_heldIssued, if_neg hb.symm]
  have hown : accountOf (heldIssued i h s) h.account = countUnhold (countIssue h.req.len
      (chargeAccount (restrained s h.account && !h.exempt) price (accountOf s h.account))) := by
    rw [accountOf_heldIssued, if_pos rfl]
  have henforced : (restrained s h.account && !h.exempt) = true ↔ enforced := by simp [enforced]
  obtain ⟨hbalance, hout, hrequests, hbeats, hoverdraw⟩ := settle_account (heldIssued i h s) h.account
  obtain ⟨hissued, hissuedBeats⟩ :=
    chargeAccount_issued (restrained s h.account && !h.exempt) price (accountOf s h.account)
  rw [hown] at hbalance hout hrequests hbeats hoverdraw
  refine ⟨_, exec_mPortReady_of_held hr hroom hp, ?_, ?_, fun b hb => ?_, ?_, ?_, ?_, ?_, ?_, fun hn => ?_, ?_⟩
  · exact settle_memPort _
  · exact settle_outstanding _
  · have hkept := settle_account (heldIssued i h s) b
    rwa [hother b hb] at hkept
  · exact hout.trans (congrArg (· + 1) (chargeAccount_outstanding ..))
  · exact hbalance.trans (chargeAccount_balance ..)
  · refine hoverdraw.trans ((chargeAccount_overdraw ..).trans ?_)
    simp only [henforced]
  · exact hrequests.trans (congrArg (bump · 1) hissued)
  · exact hbeats.trans (congrArg (bump · h.req.len) hissuedBeats)
  · exact (settle_poolSlots (s := heldIssued i h s) hn).trans (poolSlots_heldIssued i h s)
  · apply State.eq_of_fields
    case h3 => exact HostPort.eq_with_sent (settle_sent _)
    all_goals simp [heldIssued]

/-! ### The offer of a memory response -/

/-- A response is on the M-port's response channel (R107). -/
def withResponse (r : MemoryResponse) (s : State) : State := { s with memPort := { s.memPort with resp := some r } }

/-- While the part runs, a response offered on a free channel is matched at once (R107). -/
theorem exec_memoryResponse (hr : Running s) (hn : s.memPort.resp = none) (r : MemoryResponse) :
    exec (.memoryResponse r) s = .next (matchResponse (withResponse r s)) := by
  have hoffer : offerResponse r s = matchResponse (withResponse r s) := by
    unfold offerResponse
    rw [if_neg (by simp [hn])]
    exact if_pos (portsOpen_of_running (s := withResponse r s) hr)
  exact congrArg _ hoffer

/-- While a response waits, another offer does not come about (log 2). -/
theorem exec_memoryResponse_of_waiting (hw : s.memPort.resp ≠ none) (r : MemoryResponse) :
    exec (.memoryResponse r) s = .next s :=
  congrArg Host.Outcome.next (if_pos (Option.isSome_iff_ne_none.mpr hw))

/-- A response that waits is matched, or is stray (R107, R108). -/
theorem matchResponse_of_resp {r : MemoryResponse} (h : s.memPort.resp = some r) :
    matchResponse s = if matchesOutstanding s r.id r.tag then s else strayResponse s := by
  unfold matchResponse
  rw [h]

/-- A stray response leaves the channel free; it is counted and sets STRAY (R108). -/
theorem strayResponse_withResponse (hn : s.memPort.resp = none) (r : MemoryResponse) :
    strayResponse (withResponse r s) =
      { s with
        memPort := { s.memPort with strays := min (s.memPort.strays + 1) 65535 }
        alert := { s.alert with causes := s.alert.causes ||| 0x08 } } := by
  apply State.eq_of_fields
  case h4 => simp [withResponse, hn, satAdd]
  all_goals rfl

/-- Settles O28: a match is an entry with the pair of the response. -/
theorem strayResponseIsDroppedAndCounted : Obligations.StrayResponseIsDroppedAndCounted := by
  intro r s hr
  refine ⟨fun hn => ?_, fun hw => exec_memoryResponse_of_waiting hw r⟩
  have hmatch : matchesOutstanding (withResponse r s) r.id r.tag = true ↔
      ∃ e ∈ s.outstanding, (e.id, e.tag) = (r.id, r.tag) := matchesOutstanding_iff
  rw [exec_memoryResponse hr hn, matchResponse_of_resp rfl]
  refine ⟨fun hstray => ?_, fun hm => by rw [if_pos (hmatch.mpr hm)]; rfl⟩
  have hnone : ¬∃ e ∈ s.outstanding, (e.id, e.tag) = (r.id, r.tag) := fun ⟨e, he, hpair⟩ => hstray e he hpair
  rw [if_neg (mt hmatch.mp hnone), strayResponse_withResponse hn]

/-! ### The delivery of a memory response -/

/-- The memory response is delivered where no refusal waits or the preference is MEMORY (R111). -/
theorem exec_hPortReady_of_response {r : MemoryResponse} (hr : Running s) (hresp : s.memPort.resp = some r)
    (hw : refusingRecords s.pool = [] ∨ s.merger = .memory) :
    exec .hPortReadyEvent s = .next (settle (responseTaken r s)) := by
  have hready : hPortReady s = settle (responseTaken r s) := by
    unfold hPortReady
    rw [portsOpen_of_running hr, if_pos rfl, hresp, ← deliverMemoryResponse_eq]
    cases hold : oldestRefusing s.pool with
    | none => rfl
    | some candidate =>
      have hmerger : s.merger = .memory := hw.resolve_left fun hnone => by
        rw [(oldestRefusing_eq_none_iff s.pool).mpr hnone] at hold
        simp at hold
      simp [hmerger]
  exact congrArg _ hready

/-- Where no pair comes twice, an entry with the pair of another is that entry (R56). -/
theorem entry_eq_of_pair (hd : PairsDistinct s) {e x : OutstandingEntry} (he : e ∈ s.outstanding) (hx : x ∈ s.outstanding)
    (hid : x.id = e.id) (htag : x.tag = e.tag) : x = e :=
  List.inj_on_of_nodup_map (List.nodup_append.mp hd).2.1 hx he (by rw [hid, htag])

/-- The account of a pair is that of the one entry that carries it (R56, R106). -/
theorem entryAccount_of_mem (hd : PairsDistinct s) {e : OutstandingEntry} (he : e ∈ s.outstanding) :
    entryAccount s e.id e.tag = some e.account := by
  unfold entryAccount
  cases hf : s.outstanding.find? fun x => x.id == e.id && x.tag == e.tag with
  | none => simpa using List.find?_eq_none.mp hf e he
  | some x =>
    obtain ⟨hid, htag⟩ : x.id = e.id ∧ x.tag = e.tag := by simpa using List.find?_some hf
    rw [entry_eq_of_pair hd he (List.mem_of_find?_eq_some hf) hid htag]
    rfl

/-- The entries that a response leaves are all but the one it matches (R56, R112). -/
theorem mem_outstanding_responseTaken {r : MemoryResponse} (hd : PairsDistinct s) {e : OutstandingEntry}
    (he : e ∈ s.outstanding) (hid : e.id = r.id) (htag : e.tag = r.tag) (x : OutstandingEntry) :
    x ∈ (responseTaken r s).outstanding ↔ x ∈ s.outstanding ∧ x ≠ e := by
  rw [responseTaken_outstanding, List.mem_filter, ← hid, ← htag]
  refine and_congr_right fun hx => ?_
  rw [Bool.not_eq_true', Bool.eq_false_iff, ne_eq, Bool.and_eq_true, beq_iff_eq, beq_iff_eq]
  exact not_congr ⟨fun ⟨h1, h2⟩ => entry_eq_of_pair hd he hx h1 h2, fun h => h ▸ ⟨rfl, rfl⟩⟩

@[simp] theorem responseTaken_merger (r : MemoryResponse) (s : State) : (responseTaken r s).merger = .refusal := by
  unfold responseTaken; dsimp only; split <;> rfl
@[simp] theorem responseTaken_power (r : MemoryResponse) (s : State) : (responseTaken r s).power = s.power := by
  unfold responseTaken; dsimp only; split <;> rfl
@[simp] theorem responseTaken_reg (r : MemoryResponse) (s : State) : (responseTaken r s).reg = s.reg := by
  unfold responseTaken; dsimp only; split <;> rfl
@[simp] theorem responseTaken_time (r : MemoryResponse) (s : State) : (responseTaken r s).time = s.time := by
  unfold responseTaken; dsimp only; split <;> rfl
@[simp] theorem responseTaken_mdi (r : MemoryResponse) (s : State) : (responseTaken r s).mdi = s.mdi := by
  unfold responseTaken; dsimp only; split <;> rfl
@[simp] theorem responseTaken_pending (r : MemoryResponse) (s : State) : (responseTaken r s).pending = s.pending := by
  unfold responseTaken; dsimp only; split <;> rfl

/-- Settles O29: the response is taken with its one entry, and settling the pool afterwards keeps that. -/
theorem hPortDeliversTheMemoryResponse : Obligations.HPortDeliversTheMemoryResponse := by
  intro r e s hr hd hresp he hid htag hw
  have haccount : entryAccount s r.id r.tag = some e.account := hid ▸ htag ▸ entryAccount_of_mem hd he
  refine ⟨_, exec_hPortReady_of_response hr hresp hw, ?_, ?_, ?_, ?_, fun b => ?_, fun hn => ?_, ?_⟩
  · rw [settle_sent, responseTaken_hostPort]
    cases hst : r.status <;> simp [hostResponseOf, hst]
  · rw [settle_memPort, responseTaken_memPort]
  · rw [settle_merger, responseTaken_merger]
  · rw [settle_outstanding]
    exact mem_outstanding_responseTaken hd he hid htag
  · obtain ⟨hbalance, hout⟩ := settle_balance (responseTaken r s) b
    rw [hbalance, hout, accountOf_responseTaken]
    simp only [haccount, Option.some.injEq]
    by_cases hb : e.account = b
    · rw [if_pos hb, if_pos hb.symm]; exact ⟨rfl, rfl⟩
    · rw [if_neg hb, if_neg (Ne.symm hb)]; exact ⟨rfl, rfl⟩
  · rw [settle_poolSlots (by rw [responseTaken_hostPort]; exact hn), poolSlots, responseTaken_pool]
    rfl
  · apply State.eq_of_fields <;> simp

end Sys2Proof.Machine

/-! SUPPORT. The live configuration changes by a publication and at a power-on reset alone (R126, R138): what begins slice 0, the one
command that a REFCLK cycle of the link can bring (log 3), and every other event. -/

namespace Sys2Proof.Machine

open Sys2Proof.Safety

-- One declaration at a time: elaborated side by side, the text outgrows the memory of the check.
set_option Elab.async false

variable {s t u v : State}

/-! ### Publication -/

/-- A configuration has just been published at an event that begins slice 0 (R126, R127, R137). -/
structure Published (staged : Configuration) (t : State) : Prop where
  store : t.store = { staged := staged, live := staged, commitPending := false }
  done : t.alert.causes &&& 0x02 = 0x02
  cycle : t.time.cycle = 0
  tick : t.time.tick = 0
  slice : t.time.slice = 0

/-- The live configuration is kept, or a pending commit is published. -/
def KeepsOrPublishes (s t : State) : Prop :=
  t.store.live = s.store.live ∨ s.store.commitPending = true ∧ Published s.store.staged t

/-- A slice boundary publishes where it is the boundary of slice 0 and a commit is pending (R127). -/
theorem keepsOrPublishes_sliceBoundaryEvent (s : State) : KeepsOrPublishes s (sliceBoundaryEvent s) := by
  by_cases h : atPeriodEnd s = true ∧ s.store.commitPending = true
  · obtain ⟨hend, hp⟩ := h
    have htime := sliceBoundaryEvent_time_of_periodEnd ((atPeriodEnd_iff s).mp hend)
    exact .inr ⟨hp, sliceBoundaryEvent_store_of_publication hend hp, commitDone_of_publication hend hp,
      by rw [htime], by rw [htime], by rw [htime]⟩
  · exact .inl (by rw [sliceBoundaryEvent_store, beforeExpiry_store, if_neg h])

theorem keepsOrPublishes_tickEvent (s : State) : KeepsOrPublishes s (tickEvent s) := by
  unfold tickEvent
  split
  · exact .inl rfl
  · exact keepsOrPublishes_sliceBoundaryEvent s

theorem keepsOrPublishes_gridCycle (s : State) : KeepsOrPublishes s (gridCycle s) := by
  unfold gridCycle
  split
  · exact .inl rfl
  · exact keepsOrPublishes_tickEvent (pastRestart s)

theorem keepsOrPublishes_atTick {bring : State → State}
    (hb : ∀ s, bring s = tickEvent s ∨ bring s = sliceBoundaryEvent s ∨ bring s = s) (s : State) :
    KeepsOrPublishes s (atTick bring s) := by
  unfold atTick
  split
  · split
    · exact .inl rfl
    · rcases hb s with h | h | h
      · exact h ▸ keepsOrPublishes_tickEvent s
      · exact h ▸ keepsOrPublishes_sliceBoundaryEvent s
      · exact .inl (by rw [h])
  · exact .inl rfl

/-- A restart publishes a pending commit and begins slice 0 (R137). -/
theorem keepsOrPublishes_restartEvent (s : State) : KeepsOrPublishes s (restartEvent s) := by
  rw [restartEvent_eq]
  cases hp : s.store.commitPending with
  | false => exact .inl (by simp [restartFilled_store, hp])
  | true =>
    have hdone : (restartFilled s).alert.causes.getLsbD 1 = true := by simp [restartFilled_alert, hp]
    exact .inr ⟨hp, by simp [restartFilled_store, hp], commitDone_mask _ ((causesKept_settle _).1 1 hdone),
      by simp, by simp, by simp⟩

/-! ### The command of one REFCLK cycle -/

/-- A commit that is pending afterwards is one of the staged copy as it was: pending before, or accepted after validation (R123).
A single command does this; a chain of commands could write the staged copy and then commit it. -/
def PendingIsOfStaged (s t : State) : Prop :=
  t.store.commitPending = true →
    t.store.staged = s.store.staged ∧ (s.store.commitPending = true ∨ firstFault s.store.staged = none)

theorem pendingIsOfStaged_of_store_eq (h : t.store = s.store) : PendingIsOfStaged s t :=
  fun hp => ⟨by rw [h], .inl (h ▸ hp)⟩

/-- The relation speaks of the stores alone. -/
theorem PendingIsOfStaged.congr_store (h : PendingIsOfStaged s t) (hu : u.store = s.store) (hv : v.store = t.store) :
    PendingIsOfStaged u v := by
  unfold PendingIsOfStaged
  rw [hu, hv]
  exact h

theorem pendingIsOfStaged_performCommit (s : State) : PendingIsOfStaged s (performCommit s).1 := by
  unfold performCommit
  split
  · exact pendingIsOfStaged_of_store_eq rfl
  next hsound => exact fun _ => ⟨rfl, .inr hsound⟩

/-- A command that replaces the staged copy is refused while a commit is pending, and COMMIT validates it (R120, R121, R123). -/
theorem pendingIsOfStaged_perform {c : Command} (p : List Byte)
    (hfree : c.refusedWhilePending = true → s.store.commitPending = false) : PendingIsOfStaged s (perform c p s).1 := by
  cases c with
  | writeAccount | writeMap | writeGlobals | copyLiveToStaged =>
    exact fun hp => absurd ((hfree rfl).symm.trans hp) (by decide)
  | commit => exact pendingIsOfStaged_performCommit s
  | cancelCommit => exact fun hp => Bool.noConfusion hp
  | identify | readAccount | readMap | readGlobals | readHold | ackAlert | setAlertEnable | clearCapture =>
    exact pendingIsOfStaged_of_store_eq rfl
  | status | readCounters | readCapture =>
    simp only [perform, performStatus, performReadCounters, performReadCapture]
    split <;> exact pendingIsOfStaged_of_store_eq rfl
  | flush =>
    refine pendingIsOfStaged_of_store_eq ?_
    unfold perform performFlush
    dsimp only
    split <;> simp
  | setMode => exact pendingIsOfStaged_of_store_eq (settle_store _)

theorem pendingIsOfStaged_execute (code : Byte) (p : List Byte) (s : State) :
    PendingIsOfStaged s (execute code p s).1 := by
  have unchanged : PendingIsOfStaged s s := pendingIsOfStaged_of_store_eq rfl
  unfold execute
  split
  · exact unchanged
  next c _ =>
    split
    · exact unchanged
    · split
      · exact unchanged
      · split
        · exact unchanged
        next hpending => exact pendingIsOfStaged_perform p fun hc => by simpa [hc] using hpending

theorem pendingIsOfStaged_frameByte (bc : Bool) (f : Frame) (b : Byte) (s : State) :
    PendingIsOfStaged s (frameByte bc f b s) := by
  unfold frameByte
  split
  · split <;> exact pendingIsOfStaged_of_store_eq rfl
  · split
    · exact pendingIsOfStaged_of_store_eq rfl
    · split
      · unfold completeBroadcast
        split
        · exact pendingIsOfStaged_execute _ _ s
        · exact pendingIsOfStaged_of_store_eq rfl
      · unfold completeUnicast
        split
        · exact pendingIsOfStaged_execute _ _ s
        · exact pendingIsOfStaged_of_store_eq rfl

theorem pendingIsOfStaged_dataEvent (b : Byte) (s : State) : PendingIsOfStaged s (dataEvent b s) := by
  unfold dataEvent
  split
  · split
    case h_4 => exact pendingIsOfStaged_frameByte _ _ _ s
    case h_5 => exact pendingIsOfStaged_frameByte _ _ _ s
    all_goals exact pendingIsOfStaged_of_store_eq rfl
  · exact pendingIsOfStaged_of_store_eq rfl

/-! ### One REFCLK cycle of the link -/

@[simp] theorem selectEvent_store (value : Byte) (s : State) : (selectEvent value s).store = s.store := by
  unfold selectEvent
  split <;> rfl

@[simp] theorem framingErrorEvent_store (s : State) : (framingErrorEvent s).store = s.store := by
  unfold framingErrorEvent
  repeat' split
  all_goals rfl

@[simp] theorem frameTimeoutEvent_store (s : State) : (frameTimeoutEvent s).store = s.store := by
  unfold frameTimeoutEvent
  repeat' split
  all_goals rfl

@[simp] theorem breakEvent_store (s : State) : (breakEvent s).store = s.store := by
  unfold breakEvent
  split <;> rfl

@[simp] theorem endOfBreakEvent_store (s : State) : (endOfBreakEvent s).store = s.store := by
  unfold endOfBreakEvent
  split <;> rfl

@[simp] theorem linkTimers_store (s : State) : (linkTimers s).store = s.store := by
  unfold linkTimers nextCharacter
  dsimp only
  repeat' split
  all_goals rfl

/-- A change of level between two cycles settles a framing error at most: it completes no character (R156). -/
theorem receiverEdge_event (level : Bool) (r : Receiver) :
    (receiverEdge level r).2 = none ∨ (receiverEdge level r).2 = some .framingError := by
  cases r with
  | unsettled => cases level <;> simp [receiverEdge]
  | waitHigh | ready | character => exact .inl rfl

@[simp] theorem mdiEdge_store (s : State) : (mdiEdge s).store = s.store := by
  have heard : (if s.link.inBreak && mdiLevel s then endOfBreakEvent s else s).store = s.store := by
    split <;> simp
  unfold mdiEdge
  dsimp only
  generalize (if s.link.inBreak && mdiLevel s then endOfBreakEvent s else s) = u at heard ⊢
  split
  · exact heard
  · rcases receiverEdge_event (mdiLevel s) u.link.receiver with h | h
    · rw [h]; exact heard
    · rw [h]; exact (framingErrorEvent_store _).trans heard

@[simp] theorem linkMoment_store (s : State) : (linkMoment s).store = s.store := by
  unfold linkMoment gapCheck
  split <;> simp

/-- A cycle of MDI receives one character at most, which completes one frame at most (R156, R161). -/
theorem pendingIsOfStaged_mdiCycle (s : State) : PendingIsOfStaged s (mdiCycle s) := by
  have handled : ∀ (e : Option LineEvent) (u : State), u.store = s.store → PendingIsOfStaged s (handleLine e u) := by
    intro e u hu
    unfold handleLine
    split
    · exact pendingIsOfStaged_of_store_eq hu
    · exact pendingIsOfStaged_of_store_eq ((selectEvent_store _ u).trans hu)
    next value => exact (pendingIsOfStaged_dataEvent value u).congr_store hu.symm rfl
    · exact pendingIsOfStaged_of_store_eq ((framingErrorEvent_store u).trans hu)
  unfold mdiCycle
  dsimp only
  generalize (if mdiLevel s then 0 else s.link.lowFor + 1) = low
  split
  · exact pendingIsOfStaged_of_store_eq rfl
  · split
    · exact pendingIsOfStaged_of_store_eq (breakEvent_store _)
    · exact handled _ _ rfl

theorem pendingIsOfStaged_linkCycle (s : State) : PendingIsOfStaged s (linkCycle s) :=
  (pendingIsOfStaged_mdiCycle (linkTimers (linkMoment s))).congr_store (by simp) (linkMoment_store _)

/-- A REFCLK cycle publishes a commit that was pending, or that its link has just accepted (R126, log 3). -/
theorem refclkCycle_keeps_or_publishes (s : State) : (refclkCycle s).store.live = s.store.live ∨
    (s.store.commitPending = true ∨ firstFault s.store.staged = none) ∧ Published s.store.staged (refclkCycle s) := by
  unfold refclkCycle
  split
  · rcases keepsOrPublishes_gridCycle (linkCycle s) with hkept | ⟨hp, hpublished⟩
    · exact .inl (hkept.trans (timeless_linkCycle s).live)
    · obtain ⟨hstaged, hwhence⟩ := pendingIsOfStaged_linkCycle s hp
      exact .inr ⟨hwhence, hstaged ▸ hpublished⟩
  · exact .inl rfl

/-! ### Every command, every step -/

/-- What a command makes of the live configuration (R126, R138). -/
inductive LiveOutcome (c : Instr) (s t : State) : Prop
  | kept (h : t.store.live = s.store.live)
  | published (pending : s.store.commitPending = true) (h : Published s.store.staged t)
  | reset (src : ResetSource) (hc : c = .powerOnReset (.asserts src))
      (h : t.store = { staged := .powerOn, live := .powerOn, commitPending := false })

theorem KeepsOrPublishes.outcome {c : Instr} (h : KeepsOrPublishes s t) : LiveOutcome c s t :=
  h.elim .kept fun ⟨hp, hpublished⟩ => .published hp hpublished

/-- A reset that begins gives both copies their power-on values; any other change of its sources keeps them (R138). -/
theorem liveOutcome_powerOnReset (change : ResetChange) (s : State) :
    LiveOutcome (.powerOnReset change) s (powerOnResetEvent change s) := by
  unfold powerOnResetEvent
  split
  next src =>
    split
    · exact .kept rfl
    · exact .reset src rfl rfl
  next => exact .kept rfl

theorem exec_liveOutcome (c : Instr) (s : State) : ∃ t, exec c s = .next t ∧ LiveOutcome c s t := by
  by_cases hrow : c ∈ tickRows
  · obtain ⟨bring, hexec, hb⟩ := exec_of_mem_tickRows hrow
    exact ⟨_, hexec s, (keepsOrPublishes_atTick hb s).outcome⟩
  have timeless : ∀ {t}, exec c s = .next t → Timeless s t → ∃ t, exec c s = .next t ∧ LiveOutcome c s t :=
    fun he h => ⟨_, he, .kept h.live⟩
  cases c with
  | tick | sliceBoundary | periodBoundary | expiry | publication => exact absurd (by decide) hrow
  | regulationRestart =>
    refine ⟨_, rfl, ?_⟩
    split
    · exact (keepsOrPublishes_restartEvent s).outcome
    · exact .kept rfl
  | powerOnReset change => exact ⟨_, rfl, liveOutcome_powerOnReset change s⟩
  | initialisation stn rate =>
    refine ⟨_, rfl, .kept ?_⟩
    unfold initialisationEvent
    split <;> rfl
  | initialisationComplete high =>
    refine ⟨_, rfl, .kept ?_⟩
    unfold initialisationCompleteEvent
    split
    · exact ((timeless_matchResponse _).trans (timeless_judgeHead _)).live
    · rfl
  | refclkStop =>
    refine ⟨_, rfl, .kept ?_⟩
    unfold refclkStopEvent
    dsimp only
    repeat' split
    all_goals rfl
  | refclkResume =>
    refine ⟨_, rfl, .kept ?_⟩
    unfold refclkResumeEvent
    dsimp only
    repeat' split
    all_goals rfl
  | regenFall =>
    refine timeless rfl ?_
    split
    · exact Timeless.trans {} (timeless_settle _)
    · exact .refl s
  | offer r => exact timeless rfl (timeless_offerHead r s)
  | takeHeld => exact timeless rfl (timeless_takeHeldEvent s)
  | takeRefusing => exact timeless rfl (timeless_takeRefusingEvent s)
  | mPortReadyEvent => exact timeless rfl (timeless_mPortReady s)
  | memoryResponse r => exact timeless rfl (timeless_offerResponse r s)
  | hPortReadyEvent => exact timeless rfl (timeless_hPortReady s)
  | selectCharacter value => exact timeless rfl (timeless_selectEvent value s)
  | dataCharacter value => exact timeless rfl (timeless_dataEvent value s)
  | framingError => exact timeless rfl (timeless_framingErrorEvent s)
  | frameTimeout => exact timeless rfl (timeless_frameTimeoutEvent s)
  | linkBreak => exact timeless rfl (timeless_breakEvent s)
  | responseTurnaround => exact timeless rfl (timeless_turnaroundEvent s)
  | responseEnd => exact timeless rfl (timeless_responseEndEvent s)
  | endOfBreak => exact timeless rfl (timeless_endOfBreakEvent s)
  | unknownCommand | identify | statusKeep | statusClear | readAccount | writeAccount | readMap | writeMap
  | readGlobals | writeGlobals | copyLiveToStaged | commit | cancelCommit | readCountersKeep | readCountersClear
  | readHold | flushRelease | flushRefuse | readCapture | clearCapture | setMode | ackAlert | setAlertEnable =>
    exact timeless rfl (timeless_receiveFrame _ _ s)

/-- Settles O35: only a publication and a power-on reset write the live copy, and a REFCLK cycle brings one command at most before
its boundary. -/
theorem liveConfigurationChangesOnlyByPublication : Obligations.LiveConfigurationChangesOnlyByPublication := by
  intro s t hstep
  cases hp : s.pending with
  | nil =>
    obtain rfl := Host.Outcome.next.inj ((step_idle hp).symm.trans hstep)
    rcases refclkCycle_keeps_or_publishes s with hkept | ⟨hwhence, hstore, hdone, hcycle, htick, hslice⟩
    · exact .inl hkept
    · exact .inr (.inl ⟨hwhence.imp_right fun hsound => ⟨rfl, hsound⟩, hstore, hdone, hcycle, htick, hslice⟩)
  | cons c rest =>
    obtain ⟨u, hu, h⟩ := exec_liveOutcome c { s with pending := rest }
    obtain rfl := Host.Outcome.next.inj (hu.symm.trans ((step_of_front hp).symm.trans hstep))
    cases h with
    | kept h => exact .inl h
    | published pending h => exact .inr (.inl ⟨.inl pending, h.store, h.done, h.cycle, h.tick, h.slice⟩)
    | reset src hc h => exact .inr (.inr ⟨src, rest, by rw [hc], h⟩)

end Sys2Proof.Machine

/-! SUPPORT. The staged configuration: what a command frame at a SELECTED station answers (R162, R170), the fields of a payload one
after the other (R185), and the commands that write, validate and cancel (R120 to R125). -/

namespace Sys2Proof.Machine

open Sys2Proof.Safety

-- One declaration at a time: elaborated side by side, the text outgrows the memory of the check.
set_option Elab.async false

variable {s : State}

/-! ### The answer to a management row -/

section
variable {i : Instr} {c : Command} {p : List Byte}

/-- A management row at a SELECTED station is one execution and one answer: its length is right, so the checks of range and of a
pending commit remain (R162, R170). -/
theorem exec_managementRow (h : SelectedListening s) (hf : managementFrame i = some (c, p)) :
    exec i s = .next (
      if !payloadInRange c p then answering .range [] s
      else if c.refusedWhilePending && s.store.commitPending then answering .pending [] s
      else answering (perform c p s).2.status (perform c p s).2.payload (perform c p s).1) := by
  have hlength := managementFrame_length hf
  have hshort : p.length ≤ 48 := hlength ▸ c.payloadLength_le.trans (by decide)
  rw [exec_of_managementFrame hf, receiveFrame_answering h hshort, execute_code, if_neg (not_not.mpr hlength)]
  split
  · rfl
  · split <;> rfl

theorem exec_of_out_of_range (h : SelectedListening s) (hf : managementFrame i = some (c, p))
    (hr : ¬payloadInRange c p = true) : exec i s = .next (answering .range [] s) := by
  rw [exec_managementRow h hf, if_pos (by simpa using hr)]

theorem exec_of_pending (h : SelectedListening s) (hf : managementFrame i = some (c, p)) (hr : payloadInRange c p = true)
    (hc : c.refusedWhilePending = true) (hp : s.store.commitPending = true) :
    exec i s = .next (answering .pending [] s) := by
  rw [exec_managementRow h hf, if_neg (by simp [hr]), if_pos (by simp [hc, hp])]

theorem exec_of_performed (h : SelectedListening s) (hf : managementFrame i = some (c, p)) (hr : payloadInRange c p = true)
    (hfree : c.refusedWhilePending = false ∨ s.store.commitPending = false) {t : State} {st : Status}
    {q : List Byte} (he : perform c p s = (t, { status := st, payload := q })) :
    exec i s = .next (answering st q t) := by
  rw [exec_managementRow h hf, if_neg (by simp [hr]), if_neg (by rcases hfree with hc | hp <;> simp [*]), he]

end

/-! ### The fields of a payload, from its front -/

/-- A field past the first byte is a field of the bytes behind it (R185). -/
theorem fieldAt_cons_succ (b : Byte) (p : List Byte) (i n : Nat) : fieldAt (b :: p) (i + 1) n = fieldAt p i n := by
  induction n generalizing i with
  | zero => rfl
  | succ n ih => rw [fieldAt, fieldAt, ih, List.getD_cons_succ]

theorem fieldAt_byte (b : Byte) (p : List Byte) : fieldAt (b :: p) 0 1 = b.toNat := by
  rw [fieldAt_one, List.getD_cons_zero]

theorem fieldAt_twoBytes (v : BitVec 16) (p : List Byte) : fieldAt (twoBytes v.toNat ++ p) 0 2 = v.toNat :=
  (fieldAt_two _ _).trans (twoBytes_value v)

theorem fieldAt_threeBytes (v : BitVec 24) (p : List Byte) : fieldAt (threeBytes v.toNat ++ p) 0 3 = v.toNat :=
  (fieldAt_three _ _).trans (threeBytes_value v)

theorem fieldAt_past_twoBytes (v : Nat) (p : List Byte) (i n : Nat) :
    fieldAt (twoBytes v ++ p) (i + 2) n = fieldAt p i n := by
  simp only [twoBytes, List.cons_append, List.nil_append, fieldAt_cons_succ]

theorem fieldAt_past_threeBytes (v : Nat) (p : List Byte) (i n : Nat) :
    fieldAt (threeBytes v ++ p) (i + 3) n = fieldAt p i n := by
  simp only [threeBytes, List.cons_append, List.nil_append, fieldAt_cons_succ]

/-! ### Enumerations and indices -/

/-- The byte of an account mode is read back as that mode (R186). -/
theorem decodeAccountMode_modeByte (m : AccountMode) : decodeAccountMode (modeByte m).toNat = m := by cases m <;> rfl

/-- The byte of a direction filter is read back as that filter (R186). -/
theorem decodeFilter_filterByte (f : DirectionFilter) : decodeFilter (filterByte f).toNat = f := by cases f <;> rfl

theorem accountIndexOf_val (a : AccountIndex) : accountIndexOf a.val = a := Fin.ofNat_val_eq_self a

/-- The byte of an unmapped action is read back as that action (R186). -/
theorem decodeUnmapped_unmappedByte (u : UnmappedAction) : decodeUnmapped (unmappedByte u).toNat = u := by
  cases u with
  | refuse => rfl
  | account a =>
    have hbyte : (unmappedByte (.account a)).toNat = a.val := by
      rw [unmappedByte, BitVec.toNat_ofNat]
      exact Nat.mod_eq_of_lt (by omega)
    rw [decodeUnmapped, hbyte, if_neg (by omega), accountIndexOf_val]

/-! ### WRITE_ACCOUNT -/

/-- The payload of WRITE_ACCOUNT (R190). -/
def accountPayload (index mode : Byte) (quantum : BitVec 16) (extra : Byte) (ceiling : BitVec 16)
    (weight cap maxWait priority : Byte) : List Byte :=
  index :: mode :: (twoBytes quantum.toNat ++ extra :: (twoBytes ceiling.toNat ++ [weight, cap, maxWait, priority]))

section
variable (index mode : Byte) (quantum : BitVec 16) (extra : Byte) (ceiling : BitVec 16) (weight cap maxWait priority : Byte)

theorem managementFrame_writeAccount :
    managementFrame (.writeAccount index mode quantum extra ceiling weight cap maxWait priority) =
      some (.writeAccount, accountPayload index mode quantum extra ceiling weight cap maxWait priority) := rfl

/-- The eight parameters, as WRITE_ACCOUNT carries them (R190). -/
theorem decodeAccountParams_accountPayload :
    decodeAccountParams (accountPayload index mode quantum extra ceiling weight cap maxWait priority) 1 =
      { mode := decodeAccountMode mode.toNat, quantum := quantum.toNat, extra := extra.toNat, ceiling := ceiling.toNat,
        weight := weight.toNat, cap := cap.toNat, maxWait := maxWait.toNat, priority := priority.toNat } := by
  simp only [decodeAccountParams, accountPayload, Nat.reduceAdd, fieldAt_cons_succ, fieldAt_byte, fieldAt_twoBytes,
    fieldAt_past_twoBytes]

/-- The ranges of the fields of WRITE_ACCOUNT (R120, section 1.1). -/
theorem payloadInRange_accountPayload :
    payloadInRange .writeAccount (accountPayload index mode quantum extra ceiling weight cap maxWait priority) = true ↔
      index.toNat ≤ 15 ∧ mode.toNat ≤ 2 ∧ quantum.toNat ≤ 4095 ∧ extra.toNat ≤ 31 ∧
        (weight.toNat = 1 ∨ weight.toNat = 2) ∧ cap.toNat ≤ 16 ∧ priority.toNat ≤ 3 := by
  have hceiling : ceiling.toNat ≤ 65535 := Nat.le_of_lt_succ ceiling.isLt
  have hwait : maxWait.toNat ≤ 255 := Nat.le_of_lt_succ maxWait.isLt
  simp only [payloadInRange, accountParamsInRange, accountPayload, Nat.reduceAdd, fieldAt_cons_succ, fieldAt_byte,
    fieldAt_twoBytes, fieldAt_past_twoBytes, Bool.and_eq_true, Bool.or_eq_true, decide_eq_true_eq, hceiling, hwait,
    and_true, and_assoc]

end

/-- WRITE_ACCOUNT replaces the staged parameters of the account it names by its operands (R120, R190). -/
theorem perform_accountPayload (index : Byte) (m : AccountMode) (quantum : BitVec 16) (extra : Byte) (ceiling : BitVec 16)
    (weight cap maxWait priority : Byte) {a : AccountIndex} (ha : index.toNat = a.val) (s : State) :
    perform .writeAccount (accountPayload index (modeByte m) quantum extra ceiling weight cap maxWait priority) s =
      performWriteAccount a
        { mode := m, quantum := quantum.toNat, extra := extra.toNat, ceiling := ceiling.toNat, weight := weight.toNat,
          cap := cap.toNat, maxWait := maxWait.toNat, priority := priority.toNat } s := by
  have hindex : accountIndexOf (fieldAt
      (accountPayload index (modeByte m) quantum extra ceiling weight cap maxWait priority) 0 1) = a := by
    rw [accountPayload, fieldAt_byte, ha, accountIndexOf_val]
  rw [perform, hindex, decodeAccountParams_accountPayload, decodeAccountMode_modeByte]

/-- Settles O32: the checks of range and of a pending commit on the row's frame, then its fields read back as the operands. -/
theorem writeAccountReplacesStagedParameters : Obligations.WriteAccountReplacesStagedParameters := by
  intro index mode quantum extra ceiling weight cap maxWait priority s h
  have hframe := managementFrame_writeAccount index mode quantum extra ceiling weight cap maxWait priority
  have hrange := payloadInRange_accountPayload index mode quantum extra ceiling weight cap maxWait priority
  refine ⟨fun hr => exec_of_out_of_range h hframe (mt hrange.mp hr),
    fun hr hp => exec_of_pending h hframe (hrange.mpr hr) rfl hp, fun hr hp a m ha hm => ?_⟩
  subst hm
  exact exec_of_performed h hframe (hrange.mpr hr) (.inr hp)
    (perform_accountPayload index m quantum extra ceiling weight cap maxWait priority ha s)

/-! ### WRITE_MAP and WRITE_GLOBALS -/

/-- The payload of WRITE_MAP (R191). -/
def mapPayload (index valid idValue idMask : Byte) (basePage limitPage : BitVec 24) (filter account : Byte) : List Byte :=
  index :: valid :: idValue :: idMask :: (threeBytes basePage.toNat ++ (threeBytes limitPage.toNat ++ [filter, account]))

section
variable (index valid idValue idMask : Byte) (basePage limitPage : BitVec 24) (filter account : Byte)

theorem managementFrame_writeMap :
    managementFrame (.writeMap index valid idValue idMask basePage limitPage filter account) =
      some (.writeMap, mapPayload index valid idValue idMask basePage limitPage filter account) := by
  simp only [managementFrame, fieldBytes_three]
  rfl

/-- The seven fields of a map entry, as WRITE_MAP carries them (R191). -/
theorem decodeMapEntry_mapPayload :
    decodeMapEntry (mapPayload index valid idValue idMask basePage limitPage filter account) 1 =
      { valid := decide (valid = 1), idValue := idValue.setWidth 6, idMask := idMask.setWidth 6,
        basePage := basePage.setWidth 20, limitPage := limitPage.setWidth 20, filter := decodeFilter filter.toNat,
        account := accountIndexOf account.toNat } := by
  have hvalid : (valid.toNat == 1) = decide (valid = 1) := by
    rw [Bool.eq_iff_iff, beq_iff_eq, decide_eq_true_eq, BitVec.toNat_eq]
    rfl
  simp only [decodeMapEntry, mapPayload, Nat.reduceAdd, fieldAt_cons_succ, fieldAt_byte, fieldAt_threeBytes,
    fieldAt_past_threeBytes, BitVec.ofNat_toNat, hvalid]

/-- The ranges of the fields of WRITE_MAP (R120, R191). -/
theorem payloadInRange_mapPayload :
    payloadInRange .writeMap (mapPayload index valid idValue idMask basePage limitPage filter account) = true ↔
      index.toNat ≤ 23 ∧ valid.toNat ≤ 1 ∧ idValue.toNat ≤ 63 ∧ idMask.toNat ≤ 63 ∧ basePage.toNat ≤ 1048575 ∧
        limitPage.toNat ≤ 1048575 ∧ filter.toNat ≤ 2 ∧ account.toNat ≤ 15 := by
  simp only [payloadInRange, mapEntryInRange, mapPayload, Nat.reduceAdd, fieldAt_cons_succ, fieldAt_byte,
    fieldAt_threeBytes, fieldAt_past_threeBytes, Bool.and_eq_true, decide_eq_true_eq, and_assoc]

end

/-- The payload of WRITE_GLOBALS (R192). -/
def globalsPayload (prescale sliceLength : BitVec 16) (unmapped : Byte) : List Byte :=
  twoBytes prescale.toNat ++ (twoBytes sliceLength.toNat ++ [unmapped])

section
variable (prescale sliceLength : BitVec 16) (unmapped : Byte)

theorem managementFrame_writeGlobals :
    managementFrame (.writeGlobals prescale sliceLength unmapped) =
      some (.writeGlobals, globalsPayload prescale sliceLength unmapped) := rfl

/-- The three globals, as WRITE_GLOBALS carries them (R192). -/
theorem globalsPayload_fields :
    fieldAt (globalsPayload prescale sliceLength unmapped) 0 2 = prescale.toNat ∧
      fieldAt (globalsPayload prescale sliceLength unmapped) 2 2 = sliceLength.toNat ∧
      fieldAt (globalsPayload prescale sliceLength unmapped) 4 1 = unmapped.toNat :=
  ⟨fieldAt_twoBytes _ _, (fieldAt_past_twoBytes _ _ 0 2).trans (fieldAt_twoBytes _ _),
    (fieldAt_past_twoBytes _ _ 2 1).trans ((fieldAt_past_twoBytes _ _ 0 1).trans (fieldAt_byte _ _))⟩

/-- The ranges of the fields of WRITE_GLOBALS (R120, R38). -/
theorem payloadInRange_globalsPayload :
    payloadInRange .writeGlobals (globalsPayload prescale sliceLength unmapped) = true ↔
      1 ≤ sliceLength.toNat ∧ sliceLength.toNat ≤ 4096 ∧ (unmapped.toNat ≤ 15 ∨ unmapped = 0xFF) := by
  obtain ⟨hprescale, hlength, hunmapped⟩ := globalsPayload_fields prescale sliceLength unmapped
  have hword : prescale.toNat ≤ 65535 := Nat.le_of_lt_succ prescale.isLt
  simp only [payloadInRange, globalsInRange, Nat.zero_add, hprescale, hlength, hunmapped, Bool.and_eq_true,
    decide_eq_true_eq, selectorInRange_iff, SelectorNames, hword, true_and, and_assoc]

end

/-- WRITE_MAP replaces the staged entry it names by its operands (R120, R191). -/
theorem perform_mapPayload (index valid idValue idMask : Byte) (basePage limitPage : BitVec 24)
    (f : DirectionFilter) (account : Byte) {n : Fin 24} {a : AccountIndex} (hn : index.toNat = n.val)
    (ha : account.toNat = a.val) (s : State) :
    perform .writeMap (mapPayload index valid idValue idMask basePage limitPage (filterByte f) account) s =
      performWriteMap n
        { valid := decide (valid = 1), idValue := idValue.setWidth 6, idMask := idMask.setWidth 6,
          basePage := basePage.setWidth 20, limitPage := limitPage.setWidth 20, filter := f, account := a } s := by
  have hindex : Fin.ofNat 24 (fieldAt
      (mapPayload index valid idValue idMask basePage limitPage (filterByte f) account) 0 1) = n := by
    rw [mapPayload, fieldAt_byte, hn, Fin.ofNat_val_eq_self]
  rw [perform, hindex, decodeMapEntry_mapPayload, decodeFilter_filterByte, ha, accountIndexOf_val]

/-- WRITE_GLOBALS replaces the three staged globals by its operands (R120, R192). -/
theorem perform_globalsPayload (prescale sliceLength : BitVec 16) (u : UnmappedAction) (s : State) :
    perform .writeGlobals (globalsPayload prescale sliceLength (unmappedByte u)) s =
      performWriteGlobals prescale.toNat sliceLength.toNat u s := by
  obtain ⟨hprescale, hlength, hunmapped⟩ := globalsPayload_fields prescale sliceLength (unmappedByte u)
  rw [perform, hprescale, hlength, hunmapped, decodeUnmapped_unmappedByte]

/-- Settles O33: as O32, for the frames of the two rows. -/
theorem writeMapAndGlobalsReplaceStagedRecords : Obligations.WriteMapAndGlobalsReplaceStagedRecords := by
  constructor
  · intro index valid idValue idMask basePage limitPage filter account s h
    have hframe := managementFrame_writeMap index valid idValue idMask basePage limitPage filter account
    have hrange := payloadInRange_mapPayload index valid idValue idMask basePage limitPage filter account
    refine ⟨fun hr => exec_of_out_of_range h hframe (mt hrange.mp hr),
      fun hr hp => exec_of_pending h hframe (hrange.mpr hr) rfl hp, fun hr hp n a f hn ha hf => ?_⟩
    subst hf
    exact exec_of_performed h hframe (hrange.mpr hr) (.inr hp)
      (perform_mapPayload index valid idValue idMask basePage limitPage f account hn ha s)
  · intro prescale sliceLength unmapped s h
    have hframe := managementFrame_writeGlobals prescale sliceLength unmapped
    have hrange := payloadInRange_globalsPayload prescale sliceLength unmapped
    refine ⟨fun hr => exec_of_out_of_range h hframe (mt hrange.mp hr),
      fun hr hp => exec_of_pending h hframe (hrange.mpr hr) rfl hp, fun hr hp u hu => ?_⟩
    subst hu
    exact exec_of_performed h hframe (hrange.mpr hr) (.inr hp) (perform_globalsPayload prescale sliceLength u s)

/-! ### COMMIT, COPY_LIVE_TO_STAGED and CANCEL_COMMIT -/

/-- An account is faulty when it is HOLD or REFUSE and its C is less than 16 × W (R123). -/
theorem accountFaulty_iff (p : AccountParams) :
    accountFaulty p = true ↔ (p.mode = .hold ∨ p.mode = .refuse) ∧ p.ceiling < 16 * p.weight := by
  simp only [accountFaulty, Bool.and_eq_true, Bool.or_eq_true, beq_iff_eq, decide_eq_true_eq]

/-- A map entry is faulty when it is valid and its base page lies above its limit page (R123). -/
theorem mapFaulty_iff (e : MapEntry) : mapFaulty e = true ↔ e.valid = true ∧ e.limitPage < e.basePage := by
  simp only [mapFaulty, Bool.and_eq_true, decide_eq_true_eq]

/-- A search of all indices in order finds the lowest that passes. -/
theorem find?_finRange_of_lowest {n : Nat} {p : Fin n → Bool} {i : Fin n} (hi : p i = true)
    (hlower : ∀ j, j < i → ¬p j = true) : (List.finRange n).find? p = some i := by
  rw [List.find?_eq_some_iff_getElem]
  refine ⟨hi, i.val, by simp, by simp, fun j hj => ?_⟩
  simpa using hlower ⟨j, hj.trans i.isLt⟩ hj

section
variable {c : Configuration}

theorem find?_accountFaulty_eq_none (h : ∀ b : AccountIndex, ¬accountFaulty c.accounts[b] = true) :
    ((List.finRange 16).find? fun b => accountFaulty c.accounts[b]) = none :=
  List.find?_eq_none.mpr fun b _ => h b

/-- The first faulty account is the fault reported: kind 0, reason 1 (R123, R186). -/
theorem firstFault_of_account {a : AccountIndex} (ha : accountFaulty c.accounts[a] = true)
    (hlower : ∀ b : AccountIndex, b < a → ¬accountFaulty c.accounts[b] = true) :
    firstFault c = some [0, BitVec.ofNat 8 a.val, 1] := by
  have hfound := find?_finRange_of_lowest (p := fun b => accountFaulty c.accounts[b]) ha hlower
  simp only [firstFault, hfound]
  rfl

/-- With every account sound, the first faulty map entry is the fault reported: kind 1, reason 2 (R123, R186). -/
theorem firstFault_of_entry {i : Fin 24} (haccounts : ∀ b : AccountIndex, ¬accountFaulty c.accounts[b] = true)
    (hi : mapFaulty c.map[i] = true) (hlower : ∀ j : Fin 24, j < i → ¬mapFaulty c.map[j] = true) :
    firstFault c = some [1, BitVec.ofNat 8 i.val, 2] := by
  have hfound := find?_finRange_of_lowest (p := fun j => mapFaulty c.map[j]) hi hlower
  simp only [firstFault, find?_accountFaulty_eq_none haccounts, hfound]
  rfl

theorem firstFault_of_sound (haccounts : ∀ b : AccountIndex, ¬accountFaulty c.accounts[b] = true)
    (hentries : ∀ j : Fin 24, ¬mapFaulty c.map[j] = true) : firstFault c = none := by
  have hnone : ((List.finRange 24).find? fun j => mapFaulty c.map[j]) = none :=
    List.find?_eq_none.mpr fun j _ => hentries j
  simp only [firstFault, find?_accountFaulty_eq_none haccounts, hnone]

end

/-- COMMIT answers the first fault, with nothing changed (R123). -/
theorem performCommit_of_fault {fault : List Byte} (h : firstFault s.store.staged = some fault) :
    performCommit s = (s, { status := .invalid, payload := fault }) := by
  rw [performCommit, h]

/-- COMMIT of a staged copy that passes validation sets commit pending (R123). -/
theorem performCommit_of_sound (h : firstFault s.store.staged = none) :
    performCommit s = ({ s with store := { s.store with commitPending := true } }, replyOnly .accepted) := by
  rw [performCommit, h]

/-- Settles O34: the three rows have no payload to check, and COMMIT is its search for the first fault. -/
theorem commitCopyAndCancel : Obligations.CommitCopyAndCancel := by
  intro s h
  simp only [← accountFaulty_iff, ← mapFaulty_iff]
  have commit : ∀ {t st q}, s.store.commitPending = false → performCommit s = (t, ⟨st, q⟩) →
      exec .commit s = .next (answering st q t) :=
    fun hp he => exec_of_performed (c := .commit) (p := []) h rfl rfl (.inr hp) he
  refine ⟨exec_of_pending (c := .commit) (p := []) h rfl rfl rfl, fun hp => ⟨fun a ha hlower => ?_,
    fun i haccounts hi hlower => ?_, fun haccounts hentries => ?_⟩,
    exec_of_pending (c := .copyLiveToStaged) (p := []) h rfl rfl rfl, fun hp => ?_, ?_⟩
  · exact commit hp (performCommit_of_fault (firstFault_of_account ha hlower))
  · exact commit hp (performCommit_of_fault (firstFault_of_entry haccounts hi hlower))
  · exact commit hp (performCommit_of_sound (firstFault_of_sound haccounts hentries))
  · exact exec_of_performed (c := .copyLiveToStaged) (p := []) h rfl rfl (.inr hp) rfl
  · exact exec_of_performed (c := .cancelCommit) (p := []) h rfl rfl (.inl rfl) rfl

end Sys2Proof.Machine

/-! SUPPORT. The ports, the grid and the link where no event is taken (R138, R139, R40, R168), the power-on reset with its two
sources, and initialisation from its begin to the initialisation complete event (R138 to R141). -/

namespace Sys2Proof.Machine

open Sys2Proof.Safety

-- One declaration at a time: elaborated side by side, the text outgrows the memory of the check.
set_option Elab.async false

variable {s : State}

/-! ### Events that are not taken -/

theorem portsOpen_of_not_running (h : ¬Running s) : portsOpen s = false :=
  Bool.eq_false_iff.mpr (mt running_of_portsOpen h)

/-- Without REFCLK the receiver takes no character (R168). -/
theorem linkListens_of_clock_stopped (h : clockRuns s = false) : linkListens s = false := by
  unfold linkListens
  change (clockRuns s && _) = false
  rw [h, Bool.false_and]

/-- While REFCLK does not count, the grid and the link take no event (R40, R168). The initialisation complete event, which makes the
part run, is neither's. -/
theorem exec_of_clock_stopped {i : Instr} (hclock : clockRuns s = false) (hi : onlyWithRefclk i = true)
    (hother : ∀ level, i ≠ .initialisationComplete level) : exec i s = .next s := by
  have hdeaf := linkListens_of_clock_stopped hclock
  by_cases hrow : i ∈ tickRows
  · obtain ⟨bring, hexec, -⟩ := exec_of_mem_tickRows hrow
    rw [hexec, atTick, hclock]
    rfl
  cases i with
  | tick | sliceBoundary | periodBoundary | expiry | publication => exact absurd (by decide) hrow
  | initialisationComplete level => exact absurd rfl (hother level)
  | offer | memoryResponse | powerOnReset | initialisation | takeHeld | takeRefusing | mPortReadyEvent | hPortReadyEvent
  | regulationRestart | regenFall | refclkStop | refclkResume | endOfBreak => exact Bool.noConfusion hi
  | selectCharacter value => simp [exec, execSelectCharacter, selectEvent, hdeaf]
  | dataCharacter value => simp [exec, execDataCharacter, dataEvent, hdeaf]
  | framingError => simp [exec, execFramingError, framingErrorEvent, hdeaf]
  | frameTimeout => simp [exec, execFrameTimeout, frameTimeoutEvent, hdeaf]
  | linkBreak => simp [exec, execLinkBreak, breakEvent, hdeaf]
  | responseTurnaround => simp [exec, execResponseTurnaround, turnaroundEvent, hclock]
  | responseEnd => simp [exec, execResponseEnd, responseEndEvent, hclock]
  | unknownCommand | identify | statusKeep | statusClear | readAccount | writeAccount | readMap | writeMap
  | readGlobals | writeGlobals | copyLiveToStaged | commit | cancelCommit | readCountersKeep | readCountersClear
  | readHold | flushRelease | flushRefuse | readCapture | clearCapture | setMode | ackAlert | setAlertEnable =>
    exact congrArg Host.Outcome.next (receiveFrame_notListening hdeaf _ _)

/-- Before the part runs, the ports, the REGEN line and the end of a break are not taken; REFCLK is nothing to them (R138, R139). -/
theorem exec_of_ports_closed {i : Instr} (hports : portsOpen s = false) (hi : onlyWhileRunning i = true)
    (hclockless : onlyWithRefclk i = false) : exec i s = .next s := by
  cases i with
  | takeHeld => simp [exec, execTakeHeld, takeHeldEvent, hports]
  | takeRefusing => simp [exec, execTakeRefusing, takeRefusingEvent, hports]
  | mPortReadyEvent => simp [exec, execMPortReadyEvent, mPortReady, hports]
  | hPortReadyEvent => simp [exec, execHPortReadyEvent, hPortReady, hports]
  | regulationRestart => simp [exec, execRegulationRestart, hports]
  | regenFall => simp [exec, execRegenFall, hports]
  | endOfBreak => simp [exec, execEndOfBreak, endOfBreakEvent, hports]
  | offer | memoryResponse | powerOnReset | initialisation | initialisationComplete | refclkStop | refclkResume =>
    exact Bool.noConfusion hi
  | _ => exact Bool.noConfusion hclockless

/-- Settles O6: a part that does not run counts no REFCLK either, so that beside the grid and the link only the rows of the ports, of
REGEN and of the end of a break remain. -/
theorem eventsOutsideRunningChangeNothing : Obligations.EventsOutsideRunningChangeNothing := by
  intro i s
  refine ⟨fun hn hi => ?_, fun hrefclk hi => ?_⟩
  · cases hclocked : onlyWithRefclk i with
    | true =>
      refine exec_of_clock_stopped (clockRuns_of_not_running hn) hclocked fun level he => ?_
      subst he
      exact Bool.noConfusion hi
    | false => exact exec_of_ports_closed (portsOpen_of_not_running hn) hi hclocked
  · by_cases hcomplete : ∃ level, i = .initialisationComplete level
    · obtain ⟨level, rfl⟩ := hcomplete
      simp [exec, execInitialisationComplete, initialisationCompleteEvent, hrefclk]
    · refine exec_of_clock_stopped (clockRuns_of_not_clockRunning fun h => ?_) hi fun level he => hcomplete ⟨level, he⟩
      exact Bool.noConfusion (hrefclk.symm.trans h.2)

/-! ### Power-on reset -/

/-- A source that asserts the reset is added to those that do (R138). -/
theorem assertSource_eq (src : ResetSource) (p : Power) : assertSource src p =
    { p with
      resetnLow := p.resetnLow || decide (src = .resetn)
      supplyLow := p.supplyLow || decide (src = .detector) } := by
  cases src <;> simp [assertSource]

/-- A source that releases the reset is taken from those that assert it (R138). -/
theorem releaseSource_eq (src : ResetSource) (p : Power) : releaseSource src p =
    { p with
      resetnLow := p.resetnLow && !decide (src = .resetn)
      supplyLow := p.supplyLow && !decide (src = .detector) } := by
  cases src <;> simp [releaseSource]

theorem resetInForce_iff : resetInForce s = true ↔ s.power.resetnLow = true ∨ s.power.supplyLow = true := by
  simp only [resetInForce, Bool.or_eq_true]

theorem resetInForce_eq_false (hresetn : s.power.resetnLow = false) (hsupply : s.power.supplyLow = false) :
    resetInForce s = false := by
  rw [resetInForce, hresetn, hsupply]
  rfl

/-- A reset that begins leaves the one source that asserts it (R138). -/
theorem powerOnState_power (src : ResetSource) (hresetn : s.power.resetnLow = false)
    (hsupply : s.power.supplyLow = false) : (powerOnState src s).power =
      { phase := .inReset, refclk := s.power.refclk, resetnLow := decide (src = .resetn),
        supplyLow := decide (src = .detector), station := 0, rate := 0 } := by
  have hpower : (powerOnState src s).power = assertSource src { s.power with phase := .inReset, station := 0, rate := 0 } :=
    rfl
  rw [hpower, assertSource_eq, hresetn, hsupply, Bool.false_or, Bool.false_or]

/-- POWERED is set and enabled at a reset, so that ALERTn is driven unless the supply is low (R153, R141). -/
theorem alertnDriven_powerOnState (src : ResetSource) (hresetn : s.power.resetnLow = false)
    (hsupply : s.power.supplyLow = false) : alertnDriven (powerOnState src s) = decide (src = .resetn) := by
  have halert : (powerOnState src s).alert = .powerOn := rfl
  have hpowered : (AlertUnit.powerOn.causes &&& AlertUnit.powerOn.enables != 0) = true := by decide
  rw [alertnDriven, powerOnState_power src hresetn hsupply, halert, hpowered]
  cases src <;> rfl

/-- Settles O5: the first source to assert the reset begins it; any other change of the sources changes the sources alone. -/
theorem powerOnResetGivesPowerOnValues : Obligations.PowerOnResetGivesPowerOnValues := by
  intro src s
  refine ⟨fun hresetn hsupply => ⟨powerOnState src s, ?_, ?_, alertnDriven_powerOnState src hresetn hsupply⟩,
    fun hforce => ?_, ?_⟩
  · simp [exec, execPowerOnReset, powerOnResetEvent, resetInForce_eq_false hresetn hsupply]
  · rw [← powerOnState_power src hresetn hsupply]
    rfl
  · simp [exec, execPowerOnReset, powerOnResetEvent, resetInForce_iff.mpr hforce, assertSource_eq]
  · simp [exec, execPowerOnReset, powerOnResetEvent, releaseSource_eq]

/-! ### Initialisation -/

/-- The part as it begins to run, with REGEN sampled and the grid at slice 0 of period 0 (R140). -/
def runBegun (level : Bool) (s : State) : State :=
  { s with
    power := { s.power with phase := .running }
    reg := { s.reg with regenHigh := level }
    time := { cycle := 0, tick := 0, slice := 0, period := 0 } }

/-- INITIALISATION_COMPLETE begins the run, matches the response and judges the head that were offered before (R140, R118, R51). -/
theorem exec_initialisationComplete (hphase : s.power.phase = .initialising) (hrefclk : s.power.refclk = true)
    (level : Bool) : exec (.initialisationComplete level) s = .next (judgeHead (matchResponse (runBegun level s))) := by
  have hready : (decide (s.power.phase = .initialising) && s.power.refclk) = true := by simp [hphase, hrefclk]
  exact congrArg _ (if_pos hready)

theorem matchResponse_of_no_response (h : s.memPort.resp = none) : matchResponse s = s := by
  unfold matchResponse
  rw [h]

/-- With nothing outstanding a response that waits is stray (R108). -/
theorem matchResponse_of_nothing_outstanding (hw : s.memPort.resp ≠ none) (ho : s.outstanding = []) :
    matchResponse s = strayResponse s := by
  obtain ⟨r, hr⟩ := Option.ne_none_iff_exists'.mp hw
  rw [matchResponse_of_resp hr, matchesOutstanding, ho]
  rfl

/-- Before the part runs, an offer to an empty channel stays on it, not yet judged (R51). -/
theorem exec_offer_of_not_running (hn : ¬Running s) (hhead : s.hostPort.head = none) (r : Request) :
    exec (.offer r) s = .next (withOffered r s) := by
  have hoffer : offerHead r s = withOffered r s := by
    unfold offerHead
    rw [hhead, portsOpen_of_not_running hn]
    rfl
  exact congrArg _ hoffer

/-- Settles O7: the straps are sampled once no source asserts the reset; at the initialisation complete event the response and the
head are matched and judged as if they came then. -/
theorem initialisationSamplesAndStarts : Obligations.InitialisationSamplesAndStarts := by
  refine ⟨fun stn rate level s => ⟨fun hphase => ⟨fun hforce => ?_, fun hresetn hsupply => ?_⟩,
    fun hphase hrefclk hhead ho => ⟨fun hresp => ?_, fun hresp => ?_⟩⟩, fun r level s hphase hrefclk hhead hresp => ?_⟩
  · simp [exec, execInitialisation, initialisationEvent, resetInForce_iff.mpr hforce]
  · simp [exec, execInitialisation, initialisationEvent, hphase, resetInForce_eq_false hresetn hsupply]
  · rw [exec_initialisationComplete hphase hrefclk, matchResponse_of_no_response (s := runBegun level s) hresp,
      judgeHead_of_no_head (s := runBegun level s) hhead]
    rfl
  · rw [exec_initialisationComplete hphase hrefclk, matchResponse_of_nothing_outstanding (s := runBegun level s) hresp ho,
      judgeHead_of_no_head (s := strayResponse (runBegun level s)) hhead]
    rfl
  · have hn : ¬Running s := fun hr => Phase.noConfusion (hphase.symm.trans hr)
    refine ⟨withOffered r s, runBegun level s, judgeHead (withOffered r (runBegun level s)),
      exec_offer_of_not_running hn hhead r, ?_, ?_, exec_offer (s := runBegun level s) rfl hhead r⟩
    · rw [exec_initialisationComplete hphase hrefclk, matchResponse_of_no_response (s := runBegun level s) hresp,
        judgeHead_of_no_head (s := runBegun level s) hhead]
    · rw [exec_initialisationComplete (s := withOffered r s) hphase hrefclk,
        matchResponse_of_no_response (s := runBegun level (withOffered r s)) hresp]
      rfl

end Sys2Proof.Machine

/-! SUPPORT. Regulation Control: the REGEN line and the global mode (R133 to R137), with what the pool is left with where regulation
ends (R94) and where the balances are filled (R95). -/

namespace Sys2Proof.Machine

open Sys2Proof.Safety

-- One declaration at a time: elaborated side by side, the text outgrows the memory of the check.
set_option Elab.async false

variable {s t : State}

/-! ### Regulation inactive -/

/-- Another mode, or another level of REGEN, not yet settled (R134, R136). -/
def withRegulation (r : RegulationControl) (s : State) : State := { s with reg := r }

/-- With REGEN low regulation is inactive (R133). -/
theorem regulationActive_of_low (h : s.reg.regenHigh = false) : regulationActive s = false := by
  rw [regulationActive, h, Bool.and_false]

/-- With mode PASS regulation is inactive (R133). -/
theorem regulationActive_of_pass (h : s.reg.mode = .pass) : regulationActive s = false := by
  rw [regulationActive, h]
  rfl

theorem not_restrained_of_inactive (h : regulationActive s = false) (a : AccountIndex) : ¬restrained s a = true :=
  fun hr => Bool.noConfusion (h.symm.trans ((restrained_iff s a).mp hr).1)

/-- CAP is found where the outstanding count of a restrained account has reached its cap alone (R63). -/
theorem capApplies_of_admissionTest {a : AccountIndex} {exempt : Bool} {r : Request} {older : List HeldRecord}
    (h : admissionTest s a exempt r older = .cap) : capApplies s a exempt = true := by
  unfold admissionTest at h
  repeat' split at h
  all_goals simp_all

/-- Where regulation is inactive no account is restrained, and the test finds neither CAP nor CREDIT (R63, R64, R94). -/
theorem admissionTest_of_inactive (h : regulationActive s = false) (a : AccountIndex) (exempt : Bool) (r : Request)
    (older : List HeldRecord) :
    admissionTest s a exempt r older ≠ .cap ∧ admissionTest s a exempt r older ≠ .credit := by
  have hfree := not_restrained_of_inactive h a
  refine ⟨fun hcap => hfree ?_, fun hcredit => hfree ?_⟩
  · obtain ⟨-, hrestrained, -⟩ := (capApplies_iff ..).mp (capApplies_of_admissionTest hcap)
    exact hrestrained
  · obtain ⟨-, hrestrained, -⟩ := (creditApplies_iff ..).mp (creditApplies_of_admissionTest hcredit)
    exact hrestrained

/-- Blockers of HELD records alone change, and none is left at CAP or CREDIT (R94). -/
structure LiftsCapAndCredit (s t : State) : Prop where
  frame : t = { s with pool := t.pool }
  refusing : refusingRecords t.pool = refusingRecords s.pool
  held : (heldRecords t.pool).map heldFields = (heldRecords s.pool).map heldFields
  blocker : ∀ h ∈ heldRecords t.pool, h.blocker ≠ .cap ∧ h.blocker ≠ .credit

/-- With no head offered and regulation inactive, settling lifts CAP and CREDIT and refuses nothing (R94, R83). -/
theorem settle_lifts (hn : s.hostPort.head = none) (hinactive : regulationActive s = false) :
    LiftsCapAndCredit s (settle s) := by
  have hnone : ∀ h ∈ heldRecords s.pool, ∀ older,
      creditRefused s h (admissionTest s h.account h.exempt h.req older) = false :=
    fun h _ older => by simp [creditRefused, hinactive]
  obtain ⟨-, hrefusing, hheld, hblocker⟩ := judgePool_quiet s s.pool hnone []
  rw [settle_quiet hn hnone]
  refine ⟨rfl, hrefusing, hheld, fun h hh => ?_⟩
  obtain ⟨older, hb⟩ := hblocker h hh
  rw [hb]
  exact admissionTest_of_inactive hinactive h.account h.exempt h.req older

/-! ### REGEN_FALL -/

/-- A fall of REGEN is the low level, settled (R136). -/
theorem exec_regenFall (hr : Running s) (hhigh : s.reg.regenHigh = true) :
    exec .regenFall s = .next (settle (withRegulation { s.reg with regenHigh := false } s)) := by
  have hfall : (if portsOpen s && s.reg.regenHigh then regenFallEvent s else s) = regenFallEvent s := by
    rw [portsOpen_of_running hr, hhigh]
    rfl
  exact congrArg _ hfall

/-- Settles O15: with REGEN low regulation is inactive, so that the settling lifts CAP and CREDIT and refuses nothing. -/
theorem regenFallLiftsCapAndCredit : Obligations.RegenFallLiftsCapAndCredit := by
  intro s hr
  refine ⟨fun hhigh hn => ?_, fun hlow => ?_⟩
  · let u := withRegulation { s.reg with regenHigh := false } s
    have hinactive : regulationActive u = false := regulationActive_of_low rfl
    obtain ⟨hframe, hrefusing, hheld, hblocker⟩ := settle_lifts (s := u) hn hinactive
    refine ⟨settle u, exec_regenFall hr hhigh, ?_, hframe, settle_poolSlots (s := u) hn, hrefusing, hheld, hblocker⟩
    rw [regulationActive_congr (settle_reg u), hinactive]
  · simp [exec, execRegenFall, hlow]

/-! ### SET_MODE -/

/-- A mode byte is one of the two that name a mode, or out of range (R183). -/
theorem payloadInRange_setMode (mode : Byte) : payloadInRange .setMode [mode] = true ↔ mode.toNat ≤ 1 := by
  simp only [payloadInRange, fieldAt_byte, decide_eq_true_eq]

/-- SET_MODE sets the mode that its byte names (R134, R186). -/
theorem perform_setMode (mode : Byte) (s : State) : perform .setMode [mode] s =
    (settle (withRegulation { s.reg with mode := if mode = 1 then .enforce else .pass } s), replyOnly .done) := by
  have hmode : mode.toNat = 1 ↔ mode = 1 := (BitVec.toNat_eq (y := (1 : Byte))).symm
  simp only [perform, performSetMode, setGlobalMode, withRegulation, fieldAt_byte, hmode]

/-- Settling keeps every field but the pool, the accounts, the captures, the alerts and the head with its waits (R53, R80). -/
theorem settle_frame (s : State) : settle s = { s with
    accounts := (settle s).accounts, pool := (settle s).pool, capture := (settle s).capture, alert := (settle s).alert,
    hostPort := { (settle s).hostPort with sent := s.hostPort.sent } } := by
  apply State.eq_of_fields
  case h3 => exact HostPort.eq_with_sent (settle_sent s)
  all_goals simp

/-- Settles O42: the mode is set and the pool settled; with mode PASS regulation is inactive. -/
theorem setModeTakesEffectAtOnce : Obligations.SetModeTakesEffectAtOnce := by
  intro mode s h
  have hframe : managementFrame (.setMode mode) = some (.setMode, [mode]) := rfl
  refine ⟨fun hout => exec_of_out_of_range h hframe (mt (payloadInRange_setMode mode).mp (by omega)), fun hin => ?_⟩
  let u := withRegulation { s.reg with mode := if mode = 1 then .enforce else .pass } s
  refine ⟨settle u, exec_of_performed h hframe ((payloadInRange_setMode mode).mpr hin) (.inl rfl) (perform_setMode mode s),
    settle_reg u, settle_balance u, settle_poolSlots (s := u), fun hn hpass => ?_, ?_⟩
  · have hinactive : regulationActive u = false := regulationActive_of_pass (by subst hpass; rfl)
    obtain ⟨hlifted, -, -, hblocker⟩ := settle_lifts (s := u) hn hinactive
    rw [settle_reg]
    exact ⟨hlifted, hblocker⟩
  · rw [settle_reg]
    exact settle_frame u

/-! ### REGULATION_RESTART -/

/-- A restart over a sound configuration and well-formed records refuses none: past the fill it changes the blockers alone (R95). -/
theorem settle_restartFilled (hs : StoreSound s) (hrange : StoreInRange s) (hn : s.hostPort.head = none)
    (hformed : ∀ h ∈ heldRecords s.pool, 1 ≤ h.req.len ∧ h.req.len ≤ 16) :
    settle (restartFilled s) =
      { restartFilled s with pool := (judgePool (restartFilled s) .change [] (restartFilled s).pool).1 } := by
  refine settle_quiet (by rw [restartFilled_hostPort, hn]) fun h hh older => ?_
  rw [restartFilled_pool] at hh
  simp [creditRefused, not_credit_of_restartFilled hs hrange (hformed h hh).2]

/-- Past the fill a restart moves no balance and no outstanding count (R12). -/
theorem settle_restartFilled_account (s : State) (a : AccountIndex) :
    (accountOf (settle (restartFilled s)) a).balance = (liveParams (settle (restartFilled s)) a).ceiling ∧
      (accountOf (settle (restartFilled s)) a).outstanding = (accountOf s a).outstanding := by
  obtain ⟨hbalance, hout⟩ := settle_balance (restartFilled s) a
  rw [hbalance, hout, liveParams_congr (settle_store _), accountOf_restartFilled]
  exact ⟨rfl, rfl⟩

/-- A publication at the restart sets COMMIT_DONE, and the settling keeps it set (R126, R137). -/
theorem settle_restartFilled_commitDone (hp : s.store.commitPending = true) :
    (settle (restartFilled s)).alert.causes &&& 0x02 = 0x02 := by
  have hdone : (restartFilled s).alert.causes.getLsbD 1 = true := by simp [restartFilled_alert, hp]
  exact commitDone_mask _ ((causesKept_settle _).1 1 hdone)

theorem mem_tickRows_of_fallsTogether {i : Instr} (h : FallsTogether s i) : i ∈ tickRows := by
  obtain ⟨-, -, rfl | ⟨hrow, -⟩⟩ := h
  · exact List.mem_cons_self
  · exact hrow

/-- The tick in front, where it is to be discarded, is taken off the queue and changes nothing else (R47). -/
theorem step_of_dropped {i : Instr} {rest : List Instr} (hp : t.pending = i :: rest) (hrow : i ∈ tickRows)
    (hclock : ClockRunning t) (hd : t.time.dropsTick = true) :
    step t = .next { t with time := { t.time with dropsTick := false }, pending := rest } :=
  (step_of_front hp).trans
    (exec_tickRow_dropped (s := { t with pending := rest }) hrow (clockRuns_of_clockRunning hclock) hd)

/-- The tick that falls together with a restart and is taken after it leaves the four counts 0 (R47, log 6). -/
theorem step_settle_restartFilled (hr : Running s) {i : Instr} {rest : List Instr} (hp : s.pending = i :: rest)
    (hfalls : FallsTogether s i) : step (settle (restartFilled s)) = .next { settle (restartFilled s) with
      time := { cycle := 0, tick := 0, slice := 0, period := 0 }, pending := rest } := by
  have htime : (settle (restartFilled s)).time =
      { cycle := 0, tick := 0, slice := 0, period := 0, dropsTick := tickFallsTogether s } := by simp
  have hdrops : tickFallsTogether s = true := (tickFallsTogether_iff s).mpr ⟨i, by rw [hp]; rfl, hfalls⟩
  have hfront : (settle (restartFilled s)).pending = i :: rest := by simp [hp]
  have hclock : ClockRunning (settle (restartFilled s)) := by
    rw [ClockRunning, settle_power, restartFilled_power]
    exact ⟨hr, hfalls.1⟩
  rw [step_of_dropped hfront (mem_tickRows_of_fallsTogether hfalls) hclock (by rw [htime, hdrops]), htime]

theorem tickFallsTogether_eq_false (h : ∀ i : Instr, s.pending.head? = some i → ¬FallsTogether s i) :
    tickFallsTogether s = false := by
  rw [Bool.eq_false_iff, ne_eq, tickFallsTogether_iff]
  exact fun ⟨i, hi, hfalls⟩ => h i hi hfalls

/-- Settles O13: the fill gives time, store and balances, and the settling keeps them; over a sound configuration the settling
refuses nothing, so that the ports, the captures and the alerts are those of the fill too. -/
theorem restartFillsBalancesAndClearsCounts : Obligations.RestartFillsBalancesAndClearsCounts := by
  intro s hr
  refine ⟨fun hlow => ?_, fun hhigh => by simp [exec, execRegulationRestart, hhigh]⟩
  refine ⟨settle (restartFilled s), exec_regulationRestart hr hlow, by simp, by simp, by simp, by simp, by simp,
    by rw [settle_store, restartFilled_store], settle_restartFilled_commitDone, settle_restartFilled_account s,
    fun hn => ?_, fun hn hs hrange hformed => ?_, fun i rest hp hfalls => step_settle_restartFilled hr hp hfalls,
    fun hlater => ?_, ?_⟩
  · rw [settle_poolSlots (by rw [restartFilled_hostPort, hn]), poolSlots, restartFilled_pool, poolSlots]
  · rw [settle_restartFilled hs hrange hn hformed]
    exact ⟨restartFilled_hostPort s, restartFilled_capture s, restartFilled_alert s, accountOf_restartFilled s⟩
  · rw [settle_time, restartFilled_time, tickFallsTogether_eq_false hlater]
  · apply State.eq_of_fields
    case h3 => exact HostPort.eq_with_sent (by simp)
    all_goals simp

end Sys2Proof.Machine

/-! SUPPORT. The Alert Unit: the ALERTn line and the two commands on the alert causes (R151, R152), and what every command leaves of the
causes and the enables (R150, R153). A frame can be ACK_ALERT or SET_ALERT_ENABLE, so that what it keeps depends on its command. -/

namespace Sys2Proof.Machine

open Sys2Proof.Safety

-- One declaration at a time: elaborated side by side, the text outgrows the memory of the check.
set_option Elab.async false

variable {s t u : State} {i : Instr} {c : Command} {o : Option Command} {p : List Byte}

/-! ### ALERTn -/

/-- A word is not 0 where one of its bits is set. -/
theorem ne_zero_iff_exists_bit {w : Nat} {x : BitVec w} : x ≠ 0 ↔ ∃ k : Fin w, x.getLsbD k = true := by
  refine ⟨fun hx => ?_, fun ⟨k, hk⟩ hx => by simp [hx] at hk⟩
  by_contra hnone
  refine hx (BitVec.eq_of_getLsbD_eq fun k hk => ?_)
  simpa using not_exists.mp hnone ⟨k, hk⟩

/-- ALERTn is driven while the supply holds and a cause is both set and enabled (R141, R152). -/
theorem alertnDriven_iff (s : State) : alertnDriven s = true ↔ s.power.supplyLow = false ∧
    ∃ k : Fin 6, s.alert.causes.getLsbD k = true ∧ s.alert.enables.getLsbD k = true := by
  simp only [alertnDriven, Bool.and_eq_true, Bool.not_eq_true', bne_iff_ne, ne_zero_iff_exists_bit, BitVec.getLsbD_and]

/-- Bits 0 to 5 of a mask byte are those of the causes it names (R185). -/
theorem maskOf_bit (mask : Byte) (k : Fin 6) : (maskOf mask).getLsbD k = mask.getLsbD k := by
  simp [maskOf]

/-- An acknowledged cause is cleared, and every other stays as it is (R151). -/
theorem ackCauses_bit (mask : Byte) (s : State) (k : Fin 6) :
    (ackCauses (maskOf mask) s).alert.causes.getLsbD k = (s.alert.causes.getLsbD k && !mask.getLsbD k) := by
  simp only [ackCauses_alert, BitVec.getLsbD_and, BitVec.getLsbD_not, maskOf_bit, k.isLt, decide_true, Bool.true_and]

/-- Settles O43: both masks pass every check, and each command is one update of the Alert Unit. -/
theorem alertCommandsActOnTheMaskedCauses : Obligations.AlertCommandsActOnTheMaskedCauses := by
  refine ⟨alertnDriven_iff, fun mask s h => ⟨⟨ackCauses (maskOf mask) s, ?_, ackCauses_bit mask s, rfl⟩,
    ⟨setEnables (maskOf mask) s, ?_, maskOf_bit mask, rfl⟩⟩⟩
  · exact exec_of_performed (c := .ackAlert) (p := [mask]) h rfl rfl (.inl rfl) rfl
  · exact exec_of_performed (c := .setAlertEnable) (p := [mask]) h rfl rfl (.inl rfl) rfl

/-! ### Ports and pool -/

/-- What precedes may change all but the alerts. -/
theorem CausesKept.eq_trans (h : CausesKept t u) (ht : t.alert = s.alert) : CausesKept s u :=
  (CausesKept.of_eq ht).trans h

theorem causesKept_judged (oc : Occasion) (s : State) : CausesKept s (judgeHead (reevaluatePool oc s)) :=
  (causesKept_reevaluatePool oc s).trans (causesKept_judgeHead _)

theorem causesKept_offerHead (r : Request) (s : State) : CausesKept s (offerHead r s) := by
  unfold offerHead
  split
  · exact .refl s
  · dsimp only
    split
    · exact (causesKept_judgeHead _).eq_trans rfl
    · exact .of_eq rfl

theorem causesKept_takeHeldEvent (s : State) : CausesKept s (takeHeldEvent s) := by
  unfold takeHeldEvent
  repeat' split
  all_goals exact .of_eq rfl

theorem causesKept_takeRefusingEvent (s : State) : CausesKept s (takeRefusingEvent s) := by
  unfold takeRefusingEvent
  split
  · split
    · exact .refl s
    · split
      · exact .refl s
      · split
        case h_1 => exact causesKept_takeRefusing ..
        all_goals exact .refl s
  · exact .refl s

theorem causesKept_mPortReady (s : State) : CausesKept s (mPortReady s) := by
  unfold mPortReady
  split
  · split
    next picked _ => cases picked <;> exact (causesKept_settle _).eq_trans rfl
    next => exact .refl s
  · exact .refl s

/-- A stray response sets STRAY (R108). -/
theorem causesKept_matchResponse (s : State) : CausesKept s (matchResponse s) := by
  unfold matchResponse
  split
  · exact .refl s
  · split
    · exact .refl s
    · exact (causesKept_setCause .stray _).eq_trans rfl

theorem causesKept_offerResponse (r : MemoryResponse) (s : State) : CausesKept s (offerResponse r s) := by
  unfold offerResponse
  split
  · exact .refl s
  · dsimp only
    split
    · exact (causesKept_matchResponse _).eq_trans rfl
    · exact .of_eq rfl

theorem responseTaken_alert (r : MemoryResponse) (s : State) : (responseTaken r s).alert = s.alert := by
  unfold responseTaken
  dsimp only
  split <;> rfl

theorem causesKept_hPortReady (s : State) : CausesKept s (hPortReady s) := by
  have response : ∀ r, CausesKept s (deliverMemoryResponse r s) := fun r => by
    rw [deliverMemoryResponse_eq]
    exact (CausesKept.of_eq (responseTaken_alert r s)).trans (causesKept_settle _)
  have refusal : ∀ i f, CausesKept s (deliverRefusal i f s) := fun _ _ =>
    (causesKept_judgeHead _).eq_trans rfl
  unfold hPortReady
  split
  · split
    · exact .refl s
    · exact response _
    · exact refusal _ _
    · split
      · exact response _
      · exact refusal _ _
  · exact .refl s

/-! ### The grid and the lines -/

/-- What sets COMMIT_DONE at a publication, and changes no alert else, keeps the causes (R126). -/
theorem causesKept_of_publication {published : Prop} [Decidable published]
    (h : t.alert = if published then { s.alert with causes := s.alert.causes ||| 0x02 } else s.alert) : CausesKept s t := by
  split at h
  · exact (causesKept_setCause .commitDone s).trans (.of_eq h)
  · exact .of_eq h

theorem causesKept_sliceBoundaryEvent (s : State) : CausesKept s (sliceBoundaryEvent s) :=
  (causesKept_of_publication (beforeExpiry_alert (s := s))).trans (causesKept_boundary s)

theorem causesKept_tickEvent (s : State) : CausesKept s (tickEvent s) := by
  unfold tickEvent
  split
  · exact .of_eq rfl
  · exact causesKept_sliceBoundaryEvent s

theorem causesKept_atTick {bring : State → State}
    (hb : ∀ s, bring s = tickEvent s ∨ bring s = sliceBoundaryEvent s ∨ bring s = s) (s : State) :
    CausesKept s (atTick bring s) := by
  unfold atTick
  split
  · split
    · exact .of_eq rfl
    · rcases hb s with h | h | h
      · exact h ▸ causesKept_tickEvent s
      · exact h ▸ causesKept_sliceBoundaryEvent s
      · exact h.symm ▸ .refl s
  · exact .refl s

theorem causesKept_restartEvent (s : State) : CausesKept s (restartEvent s) := by
  rw [restartEvent_eq]
  exact (causesKept_of_publication (restartFilled_alert (s := s))).trans (causesKept_settle _)

theorem causesKept_initialisationEvent (stn : BitVec 5) (rate : BitVec 2) (s : State) :
    CausesKept s (initialisationEvent stn rate s) := by
  unfold initialisationEvent
  split <;> exact .of_eq rfl

theorem causesKept_initialisationCompleteEvent (high : Bool) (s : State) :
    CausesKept s (initialisationCompleteEvent high s) := by
  unfold initialisationCompleteEvent
  split
  · exact ((causesKept_matchResponse _).trans (causesKept_judgeHead _)).eq_trans rfl
  · exact .refl s

theorem causesKept_refclkStopEvent (s : State) : CausesKept s (refclkStopEvent s) := by
  unfold refclkStopEvent
  dsimp only
  repeat' split
  all_goals exact .of_eq rfl

theorem causesKept_refclkResumeEvent (s : State) : CausesKept s (refclkResumeEvent s) := by
  unfold refclkResumeEvent
  dsimp only
  repeat' split
  all_goals exact .of_eq rfl

/-! ### The link outside a frame's end -/

/-- A link error sets LINK_ERROR (R167). -/
theorem causesKept_countLinkError (s : State) : CausesKept s (countLinkError s) :=
  (causesKept_setCause .linkError _).eq_trans rfl

theorem causesKept_linkError (st : LinkState) (s : State) : CausesKept s (setLinkState st (countLinkError s)) :=
  (causesKept_countLinkError s).trans (.of_eq rfl)

theorem causesKept_selectEvent (value : Byte) (s : State) : CausesKept s (selectEvent value s) := by
  unfold selectEvent
  split <;> exact .of_eq rfl

theorem causesKept_framingErrorEvent (s : State) : CausesKept s (framingErrorEvent s) := by
  unfold framingErrorEvent
  split
  · split
    case h_1 => exact .refl s
    all_goals exact causesKept_countLinkError s
  · exact .refl s

theorem causesKept_frameTimeoutEvent (s : State) : CausesKept s (frameTimeoutEvent s) := by
  unfold frameTimeoutEvent
  split
  · split
    case h_4 => exact causesKept_linkError _ s
    case h_5 => exact causesKept_linkError _ s
    all_goals exact .of_eq rfl
  · exact .refl s

theorem causesKept_breakEvent (s : State) : CausesKept s (breakEvent s) := by
  unfold breakEvent
  split <;> exact .of_eq rfl

theorem causesKept_endOfBreakEvent (s : State) : CausesKept s (endOfBreakEvent s) := by
  unfold endOfBreakEvent
  split <;> exact .of_eq rfl

theorem causesKept_turnaroundEvent (s : State) : CausesKept s (turnaroundEvent s) := by
  unfold turnaroundEvent
  repeat' split
  all_goals exact .of_eq rfl

theorem causesKept_responseEndEvent (s : State) : CausesKept s (responseEndEvent s) := by
  unfold responseEndEvent
  repeat' split
  all_goals exact .of_eq rfl

/-! ### A command -/

/-- What an event keeps of the alerts that executes the given command at most: every set cause, unless that is ACK_ALERT, and the
enables, unless it is SET_ALERT_ENABLE (R151, R152). -/
structure AlertsKeptBut (o : Option Command) (s t : State) : Prop where
  causes : o ≠ some .ackAlert → s.alert.causes &&& t.alert.causes = s.alert.causes
  enables : o ≠ some .setAlertEnable → t.alert.enables = s.alert.enables

/-- An event that keeps the causes keeps them whatever command it could have executed. -/
theorem CausesKept.alertsKeptBut (h : CausesKept s t) : AlertsKeptBut o s t where
  causes := fun _ => h.and_eq
  enables := fun _ => h.2

theorem AlertsKeptBut.of_eq (h : t.alert = s.alert) : AlertsKeptBut o s t := (CausesKept.of_eq h).alertsKeptBut

/-- What follows the command may change all but the alerts. -/
theorem AlertsKeptBut.trans_eq (h : AlertsKeptBut o s t) (hu : u.alert = t.alert) : AlertsKeptBut o s u where
  causes := fun hc => hu ▸ h.causes hc
  enables := fun hc => hu ▸ h.enables hc

/-- Of the nineteen commands two touch the alerts otherwise than by setting a cause, and each of them one half (R151, R152). -/
theorem alertsKeptBut_perform (c : Command) (p : List Byte) (s : State) : AlertsKeptBut (some c) s (perform c p s).1 := by
  cases c with
  | ackAlert => exact ⟨fun hc => absurd rfl hc, fun _ => rfl⟩
  | setAlertEnable => exact ⟨fun _ => BitVec.and_self, fun hc => absurd rfl hc⟩
  | identify | readAccount | readMap | readGlobals | readHold | writeAccount | writeMap | writeGlobals | copyLiveToStaged
  | cancelCommit | clearCapture =>
    exact .of_eq rfl
  | status | commit | readCapture | readCounters =>
    simp only [perform, performStatus, performCommit, performReadCapture, performReadCounters]
    split <;> exact .of_eq rfl
  | flush =>
    refine CausesKept.alertsKeptBut ?_
    unfold perform performFlush
    dsimp only
    split
    · exact causesKept_judged _ s
    · exact (causesKept_settle _).eq_trans rfl
  | setMode => exact CausesKept.alertsKeptBut ((causesKept_settle _).eq_trans rfl)

/-- A frame whose code names no command executes none (R170). -/
theorem alertsKeptBut_execute (code : Byte) (p : List Byte) (s : State) :
    AlertsKeptBut (commandOf code) s (execute code p s).1 := by
  unfold execute
  split
  · exact .of_eq rfl
  next c hcode =>
    rw [hcode]
    split
    · exact .of_eq rfl
    · split
      · exact .of_eq rfl
      · split
        · exact .of_eq rfl
        · exact alertsKeptBut_perform c p s

/-! ### A character -/

/-- The command that the frame being received names: the one that its last byte executes (R161, R170). -/
def frameCommand : LinkState → Option Command
  | .receiving f => commandOf f.code
  | .broadcastReceiving f => commandOf f.code
  | .unselected | .selected | .discarding _ | .responding _ | .broadcast => none

theorem alertsKeptBut_completeUnicast (code : Byte) (p : List Byte) (sum : Byte) (s : State) :
    AlertsKeptBut (commandOf code) s (completeUnicast code p sum s) := by
  unfold completeUnicast
  split
  · exact (alertsKeptBut_execute code p s).trans_eq rfl
  · exact (causesKept_linkError _ s).alertsKeptBut

theorem alertsKeptBut_completeBroadcast (code : Byte) (p : List Byte) (sum : Byte) (s : State) :
    AlertsKeptBut (commandOf code) s (completeBroadcast code p sum s) := by
  unfold completeBroadcast
  split
  · exact (alertsKeptBut_execute code p s).trans_eq rfl
  · exact (causesKept_linkError _ s).alertsKeptBut

theorem alertsKeptBut_frameByte (bc : Bool) (f : Frame) (b : Byte) (s : State) :
    AlertsKeptBut (commandOf f.code) s (frameByte bc f b s) := by
  unfold frameByte
  split
  · split
    · exact .of_eq rfl
    · exact (causesKept_linkError _ s).alertsKeptBut
  · split
    · exact .of_eq rfl
    · split
      · exact alertsKeptBut_completeBroadcast ..
      · exact alertsKeptBut_completeUnicast ..

/-- A character executes the command of the frame being received at most (R160, R161). -/
theorem alertsKeptBut_dataEvent (b : Byte) (s : State) :
    AlertsKeptBut (frameCommand s.link.state) s (dataEvent b s) := by
  unfold dataEvent
  split
  · split
    case h_4 f hst => rw [hst]; exact alertsKeptBut_frameByte _ f b s
    case h_5 f hst => rw [hst]; exact alertsKeptBut_frameByte _ f b s
    case h_7 => exact (causesKept_countLinkError s).alertsKeptBut
    all_goals exact .of_eq rfl
  · exact .of_eq rfl

/-! ### A whole frame -/

/-- A byte outside a frame that can still be completed leaves the link state: the station discards or responds (R160, R166). -/
theorem dataEvent_unframed (b : Byte)
    (hst : (∃ bc, s.link.state = .discarding bc) ∨ ∃ r, s.link.state = .responding r) :
    CausesKept s (dataEvent b s) ∧ (dataEvent b s).link.state = s.link.state := by
  unfold dataEvent
  split
  · rcases hst with ⟨bc, hst⟩ | ⟨r, hst⟩
    · simp only [hst]
      exact ⟨.of_eq rfl, rfl⟩
    · simp only [hst]
      exact ⟨causesKept_countLinkError s, by simp [hst]⟩
  · exact ⟨.refl s, rfl⟩

theorem causesKept_receiveFrame_unframed (code : Byte) (p : List Byte)
    (hst : (∃ bc, s.link.state = .discarding bc) ∨ ∃ r, s.link.state = .responding r) :
    CausesKept s (receiveFrame code p s) := by
  unfold receiveFrame
  induction commandFrame code p generalizing s with
  | nil => exact .refl s
  | cons b bs ih =>
    obtain ⟨hkept, hsame⟩ := dataEvent_unframed b hst
    exact hkept.trans (ih (by rwa [hsame]))

/-- A frame has begun and is being received (R161). -/
def FrameBegun (s : State) : Prop :=
  ∃ f : Frame, s.link.state = .receiving f ∨ s.link.state = .broadcastReceiving f

/-- A whole frame at a station that is not within another one executes its own command at most (log 5). -/
theorem alertsKeptBut_receiveFrame {code : Byte} (hp : p.length ≤ 48) (hbegun : ¬FrameBegun s) :
    AlertsKeptBut (commandOf code) s (receiveFrame code p s) := by
  cases hl : linkListens s with
  | false => exact .of_eq (by rw [receiveFrame_notListening hl])
  | true =>
    cases hst : s.link.state with
    | receiving f => exact absurd ⟨f, .inl hst⟩ hbegun
    | broadcastReceiving f => exact absurd ⟨f, .inr hst⟩ hbegun
    | unselected => exact .of_eq (by rw [receiveFrame_unselected s hst])
    | selected =>
      rw [receiveFrame_selected s hl hst code p hp]
      exact (alertsKeptBut_execute code p s).trans_eq rfl
    | broadcast =>
      rw [receiveFrame_broadcast s hl hst code p hp]
      split
      · exact (alertsKeptBut_execute code p s).trans_eq rfl
      · exact (causesKept_linkError _ s).alertsKeptBut
    | discarding bc => exact (causesKept_receiveFrame_unframed code p (.inl ⟨bc, hst⟩)).alertsKeptBut
    | responding r => exact (causesKept_receiveFrame_unframed code p (.inr ⟨r, hst⟩)).alertsKeptBut

/-- A management row executes its own command at most (R171). -/
theorem exec_managementRow_alerts (hf : managementFrame i = some (c, p)) (hbegun : ¬FrameBegun s) (h : exec i s = .next t) :
    AlertsKeptBut (some c) s t := by
  obtain rfl := Host.Outcome.next.inj ((exec_of_managementFrame hf s).symm.trans h)
  have hshort : p.length ≤ 48 := managementFrame_length hf ▸ c.payloadLength_le.trans (by decide)
  exact commandOf_code c ▸ alertsKeptBut_receiveFrame hshort hbegun

/-! ### Every command -/

/-- The row of a management command is a read-type or a write-type one (R171). -/
theorem isRow_of_managementFrame (hf : managementFrame i = some (c, p)) : (isWriteRow i || isReadRow i) = true := by
  rw [Bool.or_eq_true]
  cases htype : c.isWriteType with
  | true => exact .inl ((isRow_iff i).1.mpr ⟨c, p, hf, htype⟩)
  | false => exact .inr ((isRow_iff i).2.mpr ⟨c, p, hf, htype⟩)

/-- A code that names a command is that command's code (R171). -/
theorem commandOf_eq_some {code : Byte} (h : commandOf code = some c) : code = c.code := by
  have hcode := List.find?_some h
  exact (eq_of_beq hcode).symm

theorem managementFrame_ackAlert (hf : managementFrame i = some (.ackAlert, p)) : ∃ mask, i = .ackAlert mask := by
  cases i <;> simp [managementFrame] at hf ⊢

theorem managementFrame_setAlertEnable (hf : managementFrame i = some (.setAlertEnable, p)) :
    ∃ mask, i = .setAlertEnable mask := by
  cases i <;> simp [managementFrame] at hf ⊢

/-- An UNKNOWN_COMMAND frame names no command and is one that can be sent (R161, R171). -/
theorem wellFormed_unknownCommand {code : Byte} :
    (Instr.unknownCommand code p).wellFormed = true ↔ commandOf code = none ∧ p.length ≤ 48 := by
  rw [Instr.wellFormed, Bool.and_eq_true, Option.isNone_iff_eq_none, decide_eq_true_eq, Config.payloadMax]

/-- The one command that a row can execute: a byte that of the frame it belongs to, a management row its own. -/
def executedCommand (s : State) (i : Instr) : Option Command :=
  match i with
  | .dataCharacter _ => frameCommand s.link.state
  | i => (managementFrame i).map Prod.fst

/-- A command is executed by its own row, or by a byte of a frame with its code (R161). -/
theorem executedCommand_eq_some (h : executedCommand s i = some c) :
    (∃ p, managementFrame i = some (c, p)) ∨ ∃ (f : Frame) (b : Byte),
      (s.link.state = .receiving f ∨ s.link.state = .broadcastReceiving f) ∧ i = .dataCharacter b ∧ f.code = c.code := by
  unfold executedCommand at h
  split at h
  next b =>
    unfold frameCommand at h
    split at h
    next f hst => exact .inr ⟨f, b, .inl hst, rfl, commandOf_eq_some h⟩
    next f hst => exact .inr ⟨f, b, .inr hst, rfl, commandOf_eq_some h⟩
    all_goals exact nomatch h
  next =>
    obtain ⟨⟨c', p⟩, hf, rfl⟩ := Option.map_eq_some_iff.mp h
    exact .inl ⟨p, hf⟩

/-- A row that is no frame, no character of one and no reset that begins keeps the causes (R150, R153). -/
theorem exec_causesKept (hrow : managementFrame i = none) (hdata : ∀ b, i ≠ .dataCharacter b)
    (hunknown : ∀ code p, i ≠ .unknownCommand code p) (hreset : ∀ src, i ≠ .powerOnReset (.asserts src))
    (h : exec i s = .next t) : CausesKept s t := by
  by_cases htick : i ∈ tickRows
  · obtain ⟨bring, hexec, hb⟩ := exec_of_mem_tickRows htick
    obtain rfl := Host.Outcome.next.inj ((hexec s).symm.trans h)
    exact causesKept_atTick hb s
  have kept : ∀ {u}, exec i s = .next u → CausesKept s u → CausesKept s t :=
    fun hu hkept => Host.Outcome.next.inj (hu.symm.trans h) ▸ hkept
  cases i with
  | tick | sliceBoundary | periodBoundary | expiry | publication => exact absurd (by decide) htick
  | dataCharacter b => exact absurd rfl (hdata b)
  | unknownCommand code p => exact absurd rfl (hunknown code p)
  | offer r => exact kept rfl (causesKept_offerHead r s)
  | takeHeld => exact kept rfl (causesKept_takeHeldEvent s)
  | takeRefusing => exact kept rfl (causesKept_takeRefusingEvent s)
  | mPortReadyEvent => exact kept rfl (causesKept_mPortReady s)
  | memoryResponse r => exact kept rfl (causesKept_offerResponse r s)
  | hPortReadyEvent => exact kept rfl (causesKept_hPortReady s)
  | regulationRestart =>
    refine kept rfl ?_
    split
    · exact causesKept_restartEvent s
    · exact .refl s
  | regenFall =>
    refine kept rfl ?_
    split
    · exact (causesKept_settle _).eq_trans rfl
    · exact .refl s
  | powerOnReset change =>
    cases change with
    | asserts src => exact absurd rfl (hreset src)
    | releases src => exact kept rfl (.of_eq rfl)
  | initialisation stn rate => exact kept rfl (causesKept_initialisationEvent stn rate s)
  | initialisationComplete high => exact kept rfl (causesKept_initialisationCompleteEvent high s)
  | selectCharacter value => exact kept rfl (causesKept_selectEvent value s)
  | framingError => exact kept rfl (causesKept_framingErrorEvent s)
  | frameTimeout => exact kept rfl (causesKept_frameTimeoutEvent s)
  | linkBreak => exact kept rfl (causesKept_breakEvent s)
  | responseTurnaround => exact kept rfl (causesKept_turnaroundEvent s)
  | responseEnd => exact kept rfl (causesKept_responseEndEvent s)
  | refclkStop => exact kept rfl (causesKept_refclkStopEvent s)
  | refclkResume => exact kept rfl (causesKept_refclkResumeEvent s)
  | endOfBreak => exact kept rfl (causesKept_endOfBreakEvent s)
  | identify | statusKeep | statusClear | readAccount | writeAccount | readMap | writeMap | readGlobals | writeGlobals
  | copyLiveToStaged | commit | cancelCommit | readCountersKeep | readCountersClear | readHold | flushRelease | flushRefuse
  | readCapture | clearCapture | setMode | ackAlert | setAlertEnable =>
    exact nomatch hrow

/-- What a command keeps of the alerts: it executes the command that its row or its frame names at most. -/
theorem exec_alertsKeptBut (h : exec i s = .next t) (hreset : ∀ src, i ≠ .powerOnReset (.asserts src))
    (hwell : ∀ code p, i = .unknownCommand code p → i.wellFormed = true)
    (hbegun : FrameBegun s → managementFrame i = none ∧ ∀ code p, i ≠ .unknownCommand code p) :
    AlertsKeptBut (executedCommand s i) s t := by
  unfold executedCommand
  split
  next b => exact Host.Outcome.next.inj h ▸ alertsKeptBut_dataEvent b s
  next hdata =>
    cases hf : managementFrame i with
    | some frame => exact exec_managementRow_alerts hf (fun hs => by simp [(hbegun hs).1] at hf) h
    | none =>
      by_cases hunknown : ∃ code p, i = .unknownCommand code p
      · obtain ⟨code, p, rfl⟩ := hunknown
        obtain ⟨hcode, hp⟩ := wellFormed_unknownCommand.mp (hwell code p rfl)
        have hkept := alertsKeptBut_receiveFrame (code := code) hp fun hs => (hbegun hs).2 code p rfl
        rw [hcode] at hkept
        exact Host.Outcome.next.inj h ▸ hkept
      · exact (exec_causesKept hf hdata (fun code p hc => hunknown ⟨code, p, hc⟩) hreset h).alertsKeptBut

/-- Settles O60: the command executed is ACK_ALERT or SET_ALERT_ENABLE only where its row or the frame begun is. -/
theorem alertCausesStaySet : Obligations.AlertCausesStaySet := by
  intro i s t h hreset hwell hframe
  have hkept : AlertsKeptBut (executedCommand s i) s t := by
    refine exec_alertsKeptBut h hreset hwell fun ⟨f, hst⟩ => ?_
    obtain ⟨hrow, hunknown, -⟩ := hframe f hst
    refine ⟨Option.eq_none_iff_forall_ne_some.mpr fun frame hf => ?_, hunknown⟩
    exact Bool.noConfusion (hrow.symm.trans (isRow_of_managementFrame hf))
  refine ⟨fun hack => hkept.causes fun hc => ?_, fun hset => hkept.enables fun hc => ?_⟩
  · rcases executedCommand_eq_some hc with ⟨p, hf⟩ | ⟨f, b, hst, hi, hcode⟩
    · obtain ⟨mask, hi⟩ := managementFrame_ackAlert hf
      exact hack mask hi
    · exact ((hframe f hst).2.2 ⟨b, hi⟩).1 hcode
  · rcases executedCommand_eq_some hc with ⟨p, hf⟩ | ⟨f, b, hst, hi, hcode⟩
    · obtain ⟨mask, hi⟩ := managementFrame_setAlertEnable hf
      exact hset mask hi
    · exact ((hframe f hst).2.2 ⟨b, hi⟩).2 hcode

end Sys2Proof.Machine

/-! SUPPORT. The frames and the receiver of the link stay sound (R156, R157, R161, R165): what each event leaves of both. -/

namespace Sys2Proof.Machine

open Sys2Proof.Safety

-- One declaration at a time: elaborated side by side, the text outgrows the memory of the check.
set_option Elab.async false

variable {s t u : State}

/-! ### What is kept -/

/-- The frame or the response of the link stays sound, and so does the receiver. -/
structure LinkKept (s t : State) : Prop where
  frames : linkSound s = true → linkSound t = true := by exact id
  receiver : receiverSound s = true → receiverSound t = true := by exact id

theorem LinkKept.refl (s : State) : LinkKept s s := {}

theorem LinkKept.trans (h : LinkKept s t) (h' : LinkKept t u) : LinkKept s u where
  frames := h'.frames ∘ h.frames
  receiver := h'.receiver ∘ h.receiver

theorem linkSound_congr (h : t.link.state = s.link.state) : linkSound t = linkSound s := by
  unfold linkSound
  rw [h]

theorem receiverSound_congr (hp : t.power = s.power) (hr : t.link.receiver = s.link.receiver)
    (hl : t.link.lowFor = s.link.lowFor) : receiverSound t = receiverSound s := by
  unfold receiverSound
  rw [hp, hr, hl]

/-- An event outside the link and the power keeps both. -/
theorem LinkKept.of_link_eq (hl : t.link = s.link) (hp : t.power = s.power) : LinkKept s t where
  frames := by rw [linkSound_congr (by rw [hl])]; exact id
  receiver := by rw [receiverSound_congr hp (by rw [hl]) (by rw [hl])]; exact id

/-! ### Head, pool, ports and grid -/

theorem linkKept_judgeHead (s : State) : LinkKept s (judgeHead s) := .of_link_eq (by simp) (by simp)

theorem linkKept_settle (s : State) : LinkKept s (settle s) := .of_link_eq (by simp) (by simp)

theorem linkKept_matchResponse (s : State) : LinkKept s (matchResponse s) := by
  unfold matchResponse
  repeat' split
  all_goals exact {}

theorem linkKept_offerHead (r : Request) (s : State) : LinkKept s (offerHead r s) := by
  unfold offerHead
  split
  · exact .refl s
  · dsimp only
    split
    · exact LinkKept.trans {} (linkKept_judgeHead _)
    · exact {}

theorem linkKept_takeHeldEvent (s : State) : LinkKept s (takeHeldEvent s) := by
  unfold takeHeldEvent
  repeat' split
  all_goals exact {}

theorem linkKept_takeRefusingEvent (s : State) : LinkKept s (takeRefusingEvent s) := by
  unfold takeRefusingEvent
  repeat' split
  all_goals exact .of_link_eq (by simp) (by simp)

theorem linkKept_mPortReady (s : State) : LinkKept s (mPortReady s) := by
  unfold mPortReady
  split
  · split
    next c _ =>
      cases c with
      | held i h => exact LinkKept.trans {} (linkKept_settle _)
      | head q a => exact LinkKept.trans {} (linkKept_settle _)
    next => exact .refl s
  · exact .refl s

theorem linkKept_offerResponse (r : MemoryResponse) (s : State) : LinkKept s (offerResponse r s) := by
  unfold offerResponse
  split
  · exact .refl s
  · dsimp only
    split
    · exact LinkKept.trans {} (linkKept_matchResponse _)
    · exact {}

theorem linkKept_hPortReady (s : State) : LinkKept s (hPortReady s) := by
  have response : ∀ r, LinkKept s (deliverMemoryResponse r s) := fun r => by
    rw [deliverMemoryResponse_eq]
    exact .of_link_eq (by simp) (by simp)
  have refusal : ∀ i r, LinkKept s (deliverRefusal i r s) := fun i r => LinkKept.trans {} (linkKept_judgeHead _)
  unfold hPortReady
  split
  · split
    · exact .refl s
    · exact response _
    · exact refusal _ _
    · split
      · exact response _
      · exact refusal _ _
  · exact .refl s

theorem linkKept_sliceBoundaryEvent (s : State) : LinkKept s (sliceBoundaryEvent s) :=
  .of_link_eq (by simp [sliceBoundaryEvent]) (by simp [sliceBoundaryEvent])

theorem linkKept_tickEvent (s : State) : LinkKept s (tickEvent s) := by
  unfold tickEvent
  split
  · exact {}
  · exact linkKept_sliceBoundaryEvent s

theorem linkKept_gridCycle (s : State) : LinkKept s (gridCycle s) := by
  unfold gridCycle
  split
  · exact {}
  · exact LinkKept.trans {} (linkKept_tickEvent _)

theorem linkKept_atTick {bring : State → State}
    (hb : ∀ s, bring s = tickEvent s ∨ bring s = sliceBoundaryEvent s ∨ bring s = s) (s : State) :
    LinkKept s (atTick bring s) := by
  unfold atTick
  split
  · split
    · exact {}
    · rcases hb s with h | h | h
      · exact h ▸ linkKept_tickEvent s
      · exact h ▸ linkKept_sliceBoundaryEvent s
      · exact h.symm ▸ .refl s
  · exact .refl s

/-! ### The Command Executor -/

/-- A command changes the error count of the link at most (R169, R174). -/
theorem perform_link (c : Command) (p : List Byte) (s : State) :
    ∃ n, (perform c p s).1.link = { s.link with errors := n } := by
  cases c with
  | status =>
    unfold perform performStatus
    dsimp only
    split
    · exact ⟨0, rfl⟩
    · exact ⟨s.link.errors, rfl⟩
  | flush =>
    refine ⟨s.link.errors, ?_⟩
    unfold perform performFlush
    dsimp only
    split <;> simp
  | setMode => exact ⟨s.link.errors, settle_link _⟩
  | commit | readCapture | readCounters =>
    refine ⟨s.link.errors, ?_⟩
    simp only [perform, performCommit, performReadCapture, performReadCounters]
    split <;> rfl
  | identify | readAccount | readMap | readGlobals | readHold => exact ⟨s.link.errors, rfl⟩
  | writeAccount | writeMap | writeGlobals | copyLiveToStaged | cancelCommit | ackAlert | setAlertEnable | clearCapture =>
    exact ⟨s.link.errors, rfl⟩

/-- What the executor leaves of a state: a command that has passed its checks is carried out, or nothing (R170). -/
theorem execute_keeps {P : State → Prop} (code : Byte) (p : List Byte) (hs : P s)
    (hperform : ∀ c, P (perform c p s).1) : P (execute code p s).1 := by
  unfold execute
  split
  · exact hs
  next c _ =>
    split
    · exact hs
    · split
      · exact hs
      · split
        · exact hs
        · exact hperform c

theorem execute_power (code : Byte) (p : List Byte) (s : State) : (execute code p s).1.power = s.power :=
  execute_keeps (P := fun u => u.power = s.power) code p rfl fun c => perform_power c p s

theorem execute_link (code : Byte) (p : List Byte) (s : State) :
    ∃ n, (execute code p s).1.link = { s.link with errors := n } :=
  execute_keeps (P := fun u => ∃ n, u.link = { s.link with errors := n }) code p ⟨s.link.errors, rfl⟩
    fun c => perform_link c p s

@[simp] theorem length_fieldBytes (n v : Nat) : (fieldBytes n v).length = n := by
  induction n generalizing v with
  | zero => rfl
  | succ n ih => simp [fieldBytes, ih]

/-- A capture record takes 15 payload bytes (R195). -/
theorem length_captureBytes (r : CaptureRecord) : (captureBytes r).length = 15 := by simp [captureBytes]

theorem length_holdBlock_le (s : State) (slot : Nat) : (holdBlock s slot).length ≤ 15 := by
  unfold holdBlock
  dsimp only
  split <;> simp

/-- A validation fault is reported in 3 bytes (R123). -/
theorem length_firstFault {c : Configuration} {fault : List Byte} (h : firstFault c = some fault) : fault.length = 3 := by
  unfold firstFault at h
  repeat' split at h
  all_goals simp at h
  all_goals simp [← h]

/-- No reply of a command is longer than a frame can carry (R161, R171). -/
theorem length_perform_le (c : Command) (p : List Byte) (s : State) : (perform c p s).2.payload.length ≤ 48 := by
  cases c with
  | identify => simp [perform, performIdentify, replyDone, identifyBlock]
  | status => simp [perform, performStatus, replyDone, statusBlock]
  | readAccount =>
    simp only [perform, performReadAccount, replyDone, accountBlock, encodeAccountParams]
    split <;> simp
  | readMap => simp [perform, performReadMap, replyDone, mapBlock, encodeMapEntry]
  | readGlobals => simp [perform, performReadGlobals, replyDone, globalsBlock, encodeGlobals]
  | readCounters => simp [perform, performReadCounters, replyDone, countersBlock]
  | readHold => exact (length_holdBlock_le _ _).trans (by decide)
  | readCapture =>
    simp only [perform, performReadCapture]
    split <;> simp [replyDone, length_captureBytes]
  | commit =>
    simp only [perform, performCommit]
    split
    next h => exact (length_firstFault h).le.trans (by decide)
    next => exact Nat.zero_le _
  | flush => simp [perform, performFlush, replyDone]
  | writeAccount | writeMap | writeGlobals | copyLiveToStaged | cancelCommit | clearCapture | setMode | ackAlert
  | setAlertEnable => exact Nat.zero_le _

theorem length_execute_le (code : Byte) (p : List Byte) (s : State) : (execute code p s).2.payload.length ≤ 48 := by
  unfold execute
  split
  · exact Nat.zero_le _
  next c _ =>
    split
    · exact Nat.zero_le _
    · split
      · exact Nat.zero_le _
      · split
        · exact Nat.zero_le _
        · exact length_perform_le c p s

/-! ### The link state -/

theorem linkKept_countLinkError (s : State) : LinkKept s (countLinkError s) := {}

theorem linkKept_selectEvent (value : Byte) (s : State) : LinkKept s (selectEvent value s) := by
  unfold selectEvent
  split
  · refine { frames := fun _ => ?_ }
    unfold selectedState
    repeat' split
    all_goals rfl
  · exact .refl s

theorem receiverSound_execute (code : Byte) (p : List Byte) (s : State) :
    receiverSound (execute code p s).1 = receiverSound s := by
  obtain ⟨n, hlink⟩ := execute_link code p s
  exact receiverSound_congr (execute_power code p s) (by rw [hlink]) (by rw [hlink])

theorem linkKept_completeUnicast (code : Byte) (p : List Byte) (sum : Byte) (s : State) :
    LinkKept s (completeUnicast code p sum s) := by
  unfold completeUnicast
  split
  · exact {
      frames := fun _ => decide_eq_true (length_execute_le code p s)
      receiver := fun h => (receiverSound_execute code p s).trans h }
  · exact { frames := fun _ => rfl }

theorem linkKept_completeBroadcast (code : Byte) (p : List Byte) (sum : Byte) (s : State) :
    LinkKept s (completeBroadcast code p sum s) := by
  unfold completeBroadcast
  split
  · exact { frames := fun _ => rfl, receiver := fun h => (receiverSound_execute code p s).trans h }
  · exact { frames := fun _ => rfl }

/-- The length byte of a sound frame leaves it sound (R161). -/
theorem frameSound_length {f : Frame} {b : Byte} (h : frameSound f = true) (hlen : f.length = none) (hb : b.toNat ≤ 48) :
    frameSound { f with length := some b.toNat, sum := f.sum + b } = true := by
  unfold frameSound at h ⊢
  simp only [hlen, Bool.and_eq_true, List.isEmpty_iff, beq_iff_eq] at h
  obtain ⟨hp, hsum⟩ := h
  simp [hp, hsum, Config.payloadMax, hb]

/-- A payload byte that a sound frame still waits for leaves it sound (R161). -/
theorem frameSound_payload {f : Frame} {b : Byte} {n : Nat} (h : frameSound f = true) (hlen : f.length = some n)
    (hn : f.payload.length < n) : frameSound { f with payload := f.payload ++ [b], sum := f.sum + b } = true := by
  unfold frameSound at h ⊢
  simp only [hlen, Bool.and_eq_true, decide_eq_true_eq, beq_iff_eq] at h ⊢
  obtain ⟨⟨hmax, -⟩, hsum⟩ := h
  exact ⟨⟨hmax, by simpa using hn⟩, by simp [hsum, BitVec.add_assoc]⟩

theorem linkKept_frameByte {bc : Bool} {f : Frame} (b : Byte) (hst : s.link.state = receivingState bc f) :
    LinkKept s (frameByte bc f b s) := by
  have sound_iff : ∀ g u, u.link.state = receivingState bc g → linkSound u = frameSound g := fun g u hu => by
    unfold linkSound
    rw [hu]
    cases bc <;> rfl
  have hf : linkSound s = true → frameSound f = true := fun h => (sound_iff f s hst).symm.trans h
  unfold frameByte
  split
  next hlen =>
    split
    next hb => exact { frames := fun h => (sound_iff _ _ rfl).trans (frameSound_length (hf h) hlen hb) }
    next => exact { frames := fun _ => rfl }
  next n hlen =>
    split
    next hn => exact { frames := fun h => (sound_iff _ _ rfl).trans (frameSound_payload (hf h) hlen hn) }
    next =>
      split
      · exact linkKept_completeBroadcast ..
      · exact linkKept_completeUnicast ..

theorem linkKept_dataEvent (b : Byte) (s : State) : LinkKept s (dataEvent b s) := by
  unfold dataEvent
  split
  · split
    next => exact .refl s
    next => exact { frames := fun _ => by simp [linkSound, frameSound] }
    next => exact { frames := fun _ => by simp [linkSound, frameSound] }
    next hst => exact linkKept_frameByte b hst
    next hst => exact linkKept_frameByte b hst
    next => exact { frames := fun _ => rfl }
    next => exact linkKept_countLinkError s
  · exact .refl s

theorem linkKept_receiveFrame (code : Byte) (p : List Byte) (s : State) : LinkKept s (receiveFrame code p s) := by
  unfold receiveFrame
  induction commandFrame code p generalizing s with
  | nil => exact .refl s
  | cons b bs ih => exact (linkKept_dataEvent b s).trans (ih _)

theorem linkKept_framingErrorEvent (s : State) : LinkKept s (framingErrorEvent s) := by
  unfold framingErrorEvent
  split
  · split
    next => exact .refl s
    next => exact linkKept_countLinkError s
    next => exact linkKept_countLinkError s
    next => exact { frames := fun _ => rfl }
    next => exact { frames := fun _ => rfl }
    next bc _ => cases bc <;> exact { frames := fun _ => rfl }
    next => exact linkKept_countLinkError s
  · exact .refl s

theorem linkKept_frameTimeoutEvent (s : State) : LinkKept s (frameTimeoutEvent s) := by
  unfold frameTimeoutEvent
  split
  · split
    next => exact .refl s
    next => exact .refl s
    next => exact .refl s
    next => exact { frames := fun _ => rfl }
    next => exact { frames := fun _ => rfl }
    next bc _ => cases bc <;> exact { frames := fun _ => rfl }
    next => exact .refl s
  · exact .refl s

theorem linkKept_endOfBreakEvent (s : State) : LinkKept s (endOfBreakEvent s) := by
  unfold endOfBreakEvent
  split
  · exact {}
  · exact .refl s

/-- A character of a response begins, or the response goes on: its payload stays (R165). -/
theorem linkKept_responding {r r' : Response} (hst : s.link.state = .responding r)
    (ht : t.link.state = .responding r') (hp : r'.payload = r.payload)
    (hreceiver : receiverSound s = true → receiverSound t = true := by exact id) : LinkKept s t where
  frames := by
    unfold linkSound
    rw [hst, ht]
    simp only [hp]
    exact id
  receiver := hreceiver

theorem linkKept_endResponse (s : State) : LinkKept s (endResponse s) where
  frames := fun _ => rfl

theorem linkKept_nextCharacter {r : Response} (hst : s.link.state = .responding r) : LinkKept s (nextCharacter r s) := by
  unfold nextCharacter
  dsimp only
  split
  · exact linkKept_responding hst rfl rfl
  · exact linkKept_endResponse s

theorem linkKept_turnaroundEvent (s : State) : LinkKept s (turnaroundEvent s) := by
  unfold turnaroundEvent
  split
  · split
    next hst =>
      split
      · exact .refl s
      · exact linkKept_responding hst rfl rfl
    all_goals exact .refl s
  · exact .refl s

theorem linkKept_responseEndEvent (s : State) : LinkKept s (responseEndEvent s) := by
  unfold responseEndEvent
  split
  · split
    next hst =>
      split
      · exact linkKept_endResponse s
      · exact .refl s
    all_goals exact .refl s
  · exact .refl s

theorem linkKept_linkTimers (s : State) : LinkKept s (linkTimers s) := by
  unfold linkTimers
  dsimp only
  split
  case h_7 r hst =>
    split
    · split
      · exact {}
      · exact linkKept_nextCharacter hst
    · split
      · exact linkKept_responding hst rfl rfl
      · exact linkKept_responding hst rfl rfl
  all_goals exact {}

theorem linkKept_handleLine (e : Option LineEvent) (s : State) : LinkKept s (handleLine e s) := by
  unfold handleLine
  split
  · exact .refl s
  · exact linkKept_selectEvent _ s
  · exact linkKept_dataEvent _ s
  · exact linkKept_framingErrorEvent s

/-! ### The receiver -/

/-- The four bit times of R155. -/
theorem bitTime_cases (rate : BitVec 2) : Config.bitTime rate = 16 ∨ Config.bitTime rate = 64 ∨
    Config.bitTime rate = 256 ∨ Config.bitTime rate = 1024 := by
  unfold Config.bitTime
  split <;> simp

/-- How many of the data and mark bits have been sampled `n` cycles after the fall that starts a character (R156). -/
def sampledBits (bit n : Nat) : Nat := min 9 ((n - bit / 2 - 1) / bit)

/-- A cycle samples one bit, in the middle of its bit time, or none (R156). -/
theorem sampledBits_succ (rate : BitVec 2) {n : Nat} (hn : n < 10 * Config.bitTime rate) :
    sampledBits (Config.bitTime rate) (n + 1) =
      sampledBits (Config.bitTime rate) n + if samplesBit (Config.bitTime rate) n then 1 else 0 := by
  simp only [sampledBits, samplesBit, Bool.and_eq_true, decide_eq_true_eq, beq_iff_eq]
  rcases bitTime_cases rate with h | h | h | h <;> rw [h] at hn ⊢ <;> split <;> omega

/-- The cycle that samples a bit is one of that bit, the start bit being the first of the character (R156). -/
theorem sampledBits_of_samples (rate : BitVec 2) {n : Nat} (hn : n < 10 * Config.bitTime rate)
    (hs : samplesBit (Config.bitTime rate) n = true) :
    n / Config.bitTime rate = sampledBits (Config.bitTime rate) n + 1 := by
  simp only [sampledBits, samplesBit, Bool.and_eq_true, decide_eq_true_eq, beq_iff_eq] at hs ⊢
  rcases bitTime_cases rate with h | h | h | h <;> rw [h] at hn hs ⊢ <;> omega

/-- From the stop bit on, the eight data bits and the mark bit have been sampled (R156). -/
theorem sampledBits_of_stop (rate : BitVec 2) {n : Nat} (hn : 10 * Config.bitTime rate ≤ n) :
    sampledBits (Config.bitTime rate) n = 9 := by
  unfold sampledBits
  rcases bitTime_cases rate with h | h | h | h <;> rw [h] at hn ⊢ <;> omega

/-- A character is not past its stop bit, and its bits have been sampled one by one (R156). -/
def CharacterSound (bit : Nat) (r : Receiver) : Prop :=
  ∀ n bits, r = .character n bits → n < 11 * bit ∧ bits.length = sampledBits bit n

theorem receiverSound_running (h : Running s) : receiverSound s = true ↔
    s.link.lowFor < 2 * Config.characterTime s.power.rate ∧
      CharacterSound (Config.bitTime s.power.rate) s.link.receiver := by
  unfold receiverSound CharacterSound sampledBits
  simp only [if_pos h, Bool.and_eq_true, decide_eq_true_eq, and_congr_right_iff]
  intro _
  cases s.link.receiver with
  | character n bits => simp
  | waitHigh | ready | unsettled => simp

theorem receiverSound_not_running (h : ¬Running s) :
    receiverSound s = true ↔ s.link.receiver = .waitHigh ∧ s.link.lowFor = 0 := by
  unfold receiverSound
  simp only [if_neg h, Bool.and_eq_true, beq_iff_eq]

/-- A receiver that waits for an idle high is sound, before the part runs with no low counted (R157, R159). -/
theorem receiverSound_of_waitHigh (hr : t.link.receiver = .waitHigh)
    (hlow : t.link.lowFor = 0 ∨ t.link.lowFor = s.link.lowFor) (hp : t.power.phase = s.power.phase)
    (hrate : t.power.rate = s.power.rate) (hs : receiverSound s = true) : receiverSound t = true := by
  have hrun : Running t ↔ Running s := by rw [Running, Running, hp]
  by_cases h : Running s
  · obtain ⟨hlt, -⟩ := (receiverSound_running h).mp hs
    refine (receiverSound_running (hrun.mpr h)).mpr ⟨?_, fun _ _ hc => by rw [hr] at hc; cases hc⟩
    rw [hrate]
    omega
  · obtain ⟨-, hzero⟩ := (receiverSound_not_running h).mp hs
    exact (receiverSound_not_running (mt hrun.mp h)).mpr ⟨hr, by omega⟩

theorem linkKept_breakEvent (s : State) : LinkKept s (breakEvent s) := by
  unfold breakEvent
  split
  · exact { frames := fun _ => rfl, receiver := receiverSound_of_waitHigh rfl (.inl rfl) rfl rfl }
  · exact .refl s

theorem receiverSound_setReceiver (h : Running s) (r : Receiver) (low : Nat) :
    receiverSound (setReceiver r low s) = true ↔
      low < 2 * Config.characterTime s.power.rate ∧ CharacterSound (Config.bitTime s.power.rate) r :=
  receiverSound_running (s := setReceiver r low s) h

/-- A change of level begins a character at most, of which nothing has been sampled (R156). -/
theorem CharacterSound.edge {rate : BitVec 2} {r : Receiver} (h : CharacterSound (Config.bitTime rate) r) (level : Bool) :
    CharacterSound (Config.bitTime rate) (receiverEdge level r).1 := by
  intro n bits hout
  cases r with
  | character m sampled => exact h n bits hout
  | ready =>
    cases level
    · obtain ⟨rfl, rfl⟩ : 0 = n ∧ [] = bits := by simpa [receiverEdge] using hout
      have := bitTime_pos rate
      exact ⟨by omega, by simp [sampledBits]⟩
    · simp [receiverEdge] at hout
  | waitHigh | unsettled => cases level <;> simp [receiverEdge] at hout

/-- A cycle of a character samples its bit, and the character ends with its stop bit (R156). -/
theorem CharacterSound.cycle {rate : BitVec 2} {r : Receiver} (h : CharacterSound (Config.bitTime rate) r) (level : Bool) :
    CharacterSound (Config.bitTime rate) (receiverCycle (Config.bitTime rate) level r).1 := by
  intro n bits hout
  cases r with
  | waitHigh | ready | unsettled => simp [receiverCycle] at hout
  | character m sampled =>
    obtain ⟨-, hlen⟩ := h m sampled rfl
    unfold receiverCycle at hout
    dsimp only at hout
    split at hout
    next hm =>
      obtain ⟨rfl, rfl⟩ := Receiver.character.inj hout
      refine ⟨by omega, ?_⟩
      rw [sampledBits_succ rate hm, ← hlen]
      split <;> simp
    next hm =>
      have hm : 10 * Config.bitTime rate ≤ m := Nat.le_of_not_lt hm
      split at hout
      · cases hout
      · split at hout
        next hnext =>
          obtain ⟨rfl, rfl⟩ := Receiver.character.inj hout
          exact ⟨hnext, by rw [hlen, sampledBits_of_stop rate hm, sampledBits_of_stop rate (Nat.le_succ_of_le hm)]⟩
        next => cases level <;> cases hout

/-! ### One REFCLK cycle of the link -/

theorem running_of_power_eq (hp : t.power = s.power) (h : Running s) : Running t := by
  rw [Running, hp]
  exact h

theorem linkKept_mdiEdge (h : Running s) : LinkKept s (mdiEdge s) := by
  unfold mdiEdge
  dsimp only
  have heard : LinkKept s (if s.link.inBreak && mdiLevel s then endOfBreakEvent s else s) := by
    split
    · exact linkKept_endOfBreakEvent s
    · exact .refl s
  have hrun : Running (if s.link.inBreak && mdiLevel s then endOfBreakEvent s else s) := by
    split
    · exact running_of_power_eq (timeless_endOfBreakEvent s).power h
    · exact h
  generalize (if s.link.inBreak && mdiLevel s then endOfBreakEvent s else s) = u at heard hrun ⊢
  split
  · exact heard
  · refine heard.trans (LinkKept.trans ?_ (linkKept_handleLine _ _))
    refine { receiver := fun hu => ?_ }
    obtain ⟨hlow, hcharacter⟩ := (receiverSound_running hrun).mp hu
    exact (receiverSound_setReceiver hrun _ _).mpr ⟨hlow, hcharacter.edge _⟩

theorem linkKept_mdiCycle (h : Running s) : LinkKept s (mdiCycle s) := by
  unfold mdiCycle
  dsimp only
  generalize (if mdiLevel s then 0 else s.link.lowFor + 1) = low
  split
  · exact {}
  · split
    · exact LinkKept.trans {} (linkKept_breakEvent _)
    next hlow =>
      refine LinkKept.trans ?_ (linkKept_handleLine _ _)
      refine { receiver := fun hs => ?_ }
      obtain ⟨-, hcharacter⟩ := (receiverSound_running h).mp hs
      exact (receiverSound_setReceiver (s := { s with mdi := _ }) h _ _).mpr ⟨Nat.lt_of_not_le hlow, hcharacter.cycle _⟩

theorem linkKept_gapCheck (s : State) : LinkKept s (gapCheck s) := by
  unfold gapCheck
  split
  · exact linkKept_frameTimeoutEvent s
  · exact .refl s

theorem linkKept_linkMoment (h : Running s) : LinkKept s (linkMoment s) :=
  (linkKept_mdiEdge h).trans (linkKept_gapCheck _)

theorem linkKept_linkCycle (h : Running s) : LinkKept s (linkCycle s) := by
  have htimers := (timeless_linkMoment s).trans (timeless_linkTimers _)
  have hcycle := htimers.trans (timeless_mdiCycle _)
  exact (linkKept_linkMoment h).trans ((linkKept_linkTimers _).trans
    ((linkKept_mdiCycle (running_of_power_eq htimers.power h)).trans
      (linkKept_linkMoment (running_of_power_eq hcycle.power h))))

theorem linkKept_refclkCycle (s : State) : LinkKept s (refclkCycle s) := by
  by_cases h : ClockRunning s
  · rw [refclkCycle, if_pos (clockRuns_of_clockRunning h)]
    exact (linkKept_linkCycle h.1).trans (linkKept_gridCycle _)
  · rw [refclkCycle, if_neg (by simp [clockRuns_of_not_clockRunning h])]
    exact .refl s

/-! ### REFCLK and power -/

theorem linkKept_refclkStopEvent (s : State) : LinkKept s (refclkStopEvent s) := by
  unfold refclkStopEvent
  dsimp only
  split
  · split
    next hst =>
      split
      · exact linkKept_responding hst rfl rfl (receiverSound_of_waitHigh rfl (.inr rfl) rfl rfl)
      · exact { receiver := receiverSound_of_waitHigh rfl (.inr rfl) rfl rfl }
    all_goals exact { receiver := receiverSound_of_waitHigh rfl (.inr rfl) rfl rfl }
  · exact .refl s

theorem linkKept_refclkResumeEvent (s : State) : LinkKept s (refclkResumeEvent s) := by
  unfold refclkResumeEvent
  dsimp only
  split
  · exact .refl s
  · split
    next hst =>
      split
      · split
        · exact linkKept_responding hst rfl rfl
        · exact { frames := fun _ => rfl }
      · exact {}
    all_goals exact {}

theorem linkKept_powerOnResetEvent (change : ResetChange) (s : State) : LinkKept s (powerOnResetEvent change s) := by
  unfold powerOnResetEvent
  split
  next src =>
    split
    · cases src <;> exact {}
    · refine { frames := fun _ => rfl, receiver := fun _ => ?_ }
      refine (receiverSound_not_running ?_).mpr ⟨rfl, rfl⟩
      cases src <;> exact Phase.noConfusion
  next src => cases src <;> exact {}

/-- Initialisation finds and leaves a receiver at rest, at whatever rate the straps select (R139, R159). -/
theorem linkKept_initialisationEvent (stn : BitVec 5) (rate : BitVec 2) (s : State) :
    LinkKept s (initialisationEvent stn rate s) := by
  unfold initialisationEvent
  split
  next h =>
    have hphase : s.power.phase = .inReset := (Bool.and_eq_true_iff.mp h).1 |> of_decide_eq_true
    have hrest : ¬Running s := by rw [Running, hphase]; exact Phase.noConfusion
    exact { receiver := fun hs =>
      (receiverSound_not_running (s := { s with power := _ }) Phase.noConfusion).mpr ((receiverSound_not_running hrest).mp hs) }
  next => exact .refl s

theorem linkKept_initialisationCompleteEvent (high : Bool) (s : State) :
    LinkKept s (initialisationCompleteEvent high s) := by
  unfold initialisationCompleteEvent
  split
  next h =>
    have hphase : s.power.phase = .initialising := (Bool.and_eq_true_iff.mp h).1 |> of_decide_eq_true
    have hrest : ¬Running s := by rw [Running, hphase]; exact Phase.noConfusion
    refine LinkKept.trans ?_ ((linkKept_matchResponse _).trans (linkKept_judgeHead _))
    refine { receiver := fun hs => ?_ }
    obtain ⟨hwait, hlow⟩ := (receiverSound_not_running hrest).mp hs
    refine (receiverSound_running rfl).mpr ⟨?_, fun _ _ hc => ?_⟩
    · show s.link.lowFor < 2 * (11 * Config.bitTime s.power.rate)
      have := bitTime_pos s.power.rate
      omega
    · exact absurd (hwait.symm.trans hc) Receiver.noConfusion
  next => exact .refl s

/-! ### Every command, every step -/

theorem exec_linkKept (c : Instr) (s : State) : ∃ t, exec c s = .next t ∧ LinkKept s t := by
  by_cases hrow : c ∈ tickRows
  · obtain ⟨bring, hexec, hb⟩ := exec_of_mem_tickRows hrow
    exact ⟨_, hexec s, linkKept_atTick hb s⟩
  cases c with
  | tick | sliceBoundary | periodBoundary | expiry | publication => exact absurd (by decide) hrow
  | offer r => exact ⟨_, rfl, linkKept_offerHead r s⟩
  | takeHeld => exact ⟨_, rfl, linkKept_takeHeldEvent s⟩
  | takeRefusing => exact ⟨_, rfl, linkKept_takeRefusingEvent s⟩
  | mPortReadyEvent => exact ⟨_, rfl, linkKept_mPortReady s⟩
  | memoryResponse r => exact ⟨_, rfl, linkKept_offerResponse r s⟩
  | hPortReadyEvent => exact ⟨_, rfl, linkKept_hPortReady s⟩
  | regulationRestart =>
    refine ⟨_, rfl, ?_⟩
    split
    · exact .of_link_eq (by simp [restartEvent_eq]) (by simp [restartEvent_eq])
    · exact .refl s
  | regenFall =>
    refine ⟨_, rfl, ?_⟩
    split
    · exact LinkKept.trans {} (linkKept_settle _)
    · exact .refl s
  | powerOnReset change => exact ⟨_, rfl, linkKept_powerOnResetEvent change s⟩
  | initialisation stn rate => exact ⟨_, rfl, linkKept_initialisationEvent stn rate s⟩
  | initialisationComplete high => exact ⟨_, rfl, linkKept_initialisationCompleteEvent high s⟩
  | selectCharacter value => exact ⟨_, rfl, linkKept_selectEvent value s⟩
  | dataCharacter value => exact ⟨_, rfl, linkKept_dataEvent value s⟩
  | framingError => exact ⟨_, rfl, linkKept_framingErrorEvent s⟩
  | frameTimeout => exact ⟨_, rfl, linkKept_frameTimeoutEvent s⟩
  | linkBreak => exact ⟨_, rfl, linkKept_breakEvent s⟩
  | responseTurnaround => exact ⟨_, rfl, linkKept_turnaroundEvent s⟩
  | responseEnd => exact ⟨_, rfl, linkKept_responseEndEvent s⟩
  | refclkStop => exact ⟨_, rfl, linkKept_refclkStopEvent s⟩
  | refclkResume => exact ⟨_, rfl, linkKept_refclkResumeEvent s⟩
  | endOfBreak => exact ⟨_, rfl, linkKept_endOfBreakEvent s⟩
  | unknownCommand | identify | statusKeep | statusClear | readAccount | writeAccount | readMap | writeMap
  | readGlobals | writeGlobals | copyLiveToStaged | commit | cancelCommit | readCountersKeep | readCountersClear
  | readHold | flushRelease | flushRefuse | readCapture | clearCapture | setMode | ackAlert | setAlertEnable =>
    exact ⟨_, rfl, linkKept_receiveFrame _ _ s⟩

theorem step_linkKept (h : step s = .next t) : LinkKept s t := by
  cases hp : s.pending with
  | nil =>
    obtain rfl := Host.Outcome.next.inj ((step_idle hp).symm.trans h)
    exact linkKept_refclkCycle s
  | cons c rest =>
    obtain ⟨u, hu, hkept⟩ := exec_linkKept c { s with pending := rest }
    obtain rfl := Host.Outcome.next.inj (hu.symm.trans ((step_of_front hp).symm.trans h))
    exact LinkKept.trans {} hkept

/-- Settles O59: no event but a byte of a frame, a response and a cycle of MDI touches what is kept, and each of these keeps it. -/
theorem linkFramesStaySound : Obligations.LinkFramesStaySound :=
  fun _ _ h => ⟨(step_linkKept h).frames, (step_linkKept h).receiver⟩

end Sys2Proof.Machine

/-! SUPPORT. Characters by link state: data characters, and the management rows at a station that is not SELECTED (R160 to R163). -/

namespace Sys2Proof.Machine

open Sys2Proof.Safety

-- One declaration at a time: elaborated side by side, the text outgrows the memory of the check.
set_option Elab.async false

variable {s : State}

/-! ### Data characters -/

/-- The codes of the write-type commands (R163, R171). -/
theorem isWriteTypeCode_iff (code : Byte) : isWriteTypeCode code = true ↔
    code ∈ ([0x11, 0x13, 0x15, 0x16, 0x18, 0x19, 0x28, 0x31, 0x38, 0x39, 0x3A] : List Byte) := by
  constructor
  · intro h
    unfold isWriteTypeCode at h
    split at h
    next c hc =>
      rw [commandOf_eq_some hc]
      cases c with
      | identify | status | readAccount | readMap | readGlobals | readCounters | readHold | readCapture =>
        exact Bool.noConfusion h
      | writeAccount | writeMap | writeGlobals | copyLiveToStaged | commit | cancelCommit | flush | clearCapture | setMode
      | ackAlert | setAlertEnable => decide
    next => exact Bool.noConfusion h
  · intro h
    simp only [List.mem_cons, List.not_mem_nil, or_false] at h
    rcases h with rfl | rfl | rfl | rfl | rfl | rfl | rfl | rfl | rfl | rfl | rfl <;> rfl

/-- The first byte of a frame is its code (R161). -/
def frameOf (b : Byte) : Frame := { code := b, length := none, payload := [], sum := b }

theorem dataEvent_of_unselected (b : Byte) (h : Listening s) (hst : s.link.state = .unselected) : dataEvent b s = s := by
  rw [dataEvent, if_pos (linkListens_of_listening h), hst]

/-- A station that waits for a frame takes a data character as the code of one (R160). -/
theorem dataEvent_of_idle {bc : Bool} (b : Byte) (h : Listening s) (hst : s.link.state = idleState bc) :
    dataEvent b s = withLinkState (receivingState bc (frameOf b)) s := by
  rw [dataEvent, if_pos (linkListens_of_listening h), hst]
  cases bc <;> rfl

/-- A data character within a frame is the next byte of that frame (R160, R161). -/
theorem dataEvent_frame {bc : Bool} {f : Frame} (b : Byte) (h : Listening s)
    (hst : s.link.state = receivingState bc f) : dataEvent b s = frameByte bc f b s := by
  unfold dataEvent
  rw [if_pos (linkListens_of_listening h), hst]
  cases bc <;> rfl

theorem frameByte_length {f : Frame} {b : Byte} (bc : Bool) (s : State) (hlen : f.length = none) (hb : b.toNat ≤ 48) :
    frameByte bc f b s =
      withLinkState (receivingState bc { f with length := some b.toNat, sum := f.sum + b }) s := by
  unfold frameByte
  rw [hlen]
  exact if_pos hb

theorem frameByte_tooLong {f : Frame} {b : Byte} (bc : Bool) (s : State) (hlen : f.length = none) (hb : 48 < b.toNat) :
    frameByte bc f b s = withLinkState (.discarding bc) (withLinkError s) := by
  unfold frameByte
  rw [hlen]
  exact if_neg (Nat.not_le.mpr hb)

theorem frameByte_payload {f : Frame} {n : Nat} (bc : Bool) (b : Byte) (s : State) (hlen : f.length = some n)
    (hn : f.payload.length < n) : frameByte bc f b s =
      withLinkState (receivingState bc { f with payload := f.payload ++ [b], sum := f.sum + b }) s := by
  unfold frameByte
  rw [hlen]
  exact if_pos hn

/-- The byte behind a whole payload is the check byte (R161). -/
theorem frameByte_check {f : Frame} {n : Nat} (bc : Bool) (b : Byte) (s : State) (hlen : f.length = some n)
    (hn : n ≤ f.payload.length) : frameByte bc f b s =
      if bc then completeBroadcast f.code f.payload (f.sum + b) s else completeUnicast f.code f.payload (f.sum + b) s := by
  unfold frameByte
  rw [hlen]
  exact if_neg (Nat.not_lt.mpr hn)

theorem withLinkState_self {st : LinkState} (hst : s.link.state = st) :
    withLinkState st s = { s with link := { s.link with gapTimer := 0 } } := by
  rw [← hst]
  rfl

/-- Settles O48: within a frame the character is the frame's next byte, and the check byte completes it. -/
theorem dataCharacterByLinkState : Obligations.DataCharacterByLinkState := by
  intro b s h
  have hl := linkListens_of_listening h
  have outside : ∀ t, dataEvent b s = t → exec (.dataCharacter b) s = .next t := fun t ht => congrArg Host.Outcome.next ht
  refine ⟨fun hst => outside _ (dataEvent_of_unselected b h hst),
    fun hst => outside _ (dataEvent_of_idle (bc := false) b h hst),
    fun hst => outside _ (dataEvent_of_idle (bc := true) b h hst), fun note hst => outside _ ?_,
    fun r hst => outside _ ?_, fun f wide hst => ?_⟩
  · rw [dataEvent, if_pos hl, hst]
    exact withLinkState_self hst
  · rw [dataEvent, if_pos hl, hst]; rfl
  · have within : ∀ t, frameByte wide f b s = t → exec (.dataCharacter b) s = .next t :=
      fun t ht => outside t ((dataEvent_frame b h hst).trans ht)
    refine ⟨fun hlen hb => within _ (frameByte_length wide s hlen hb),
      fun hlen hb => within _ (frameByte_tooLong wide s hlen hb), fun n hlen =>
      ⟨fun hn => within _ (frameByte_payload wide b s hlen hn), fun hn hsum => within _ ?_,
        fun hn hsum hwide => within _ ?_, fun hn hsum hwide => within _ ?_⟩⟩
    · rw [frameByte_check wide b s hlen hn]
      cases wide with
      | true => simp only [completeBroadcast, hsum]; rfl
      | false => simp only [completeUnicast, hsum]; rfl
    · rw [frameByte_check wide b s hlen hn, hwide, hsum]
      rfl
    · rw [frameByte_check wide b s hlen hn, hwide, hsum]
      simp only [completeBroadcast, isWriteTypeCode_iff, Bool.and_eq_true, decide_true, true_and]
      rfl

/-! ### Rows at a station that is not SELECTED -/

theorem isWriteTypeCode_code (c : Command) : isWriteTypeCode c.code = c.isWriteType := by
  unfold isWriteTypeCode
  rw [commandOf_code]

/-- A management row at a station selected by broadcast is executed if it is write-type, and a link error else (R163). -/
theorem exec_managementRow_broadcast {i : Instr} {c : Command} {p : List Byte} (h : BroadcastListening s)
    (hf : managementFrame i = some (c, p)) : exec i s =
      .next (withLinkState .broadcast (if c.isWriteType = true then (execute c.code p s).1 else withLinkError s)) := by
  have hshort : p.length ≤ 48 := managementFrame_length hf ▸ c.payloadLength_le.trans (by decide)
  rw [exec_of_managementFrame hf, receiveFrame_broadcast s (linkListens_of_listening h.1) h.2 c.code p hshort,
    isWriteTypeCode_code]
  rfl

/-- The executor does not see which of two link states a frame leaves behind (R169). -/
theorem withLinkState_execute (st st' : LinkState) (code : Byte) (p : List Byte) (s : State) :
    withLinkState st (execute code p { s with link := { s.link with state := st' } }).1 =
      withLinkState st (execute code p s).1 := by
  have same : ∀ u, withLinkState st (execute code p u).1 = (execute code p (setLinkState st u)).1 := fun u => by
    rw [execute_setLinkState]
    rfl
  rw [same, same]
  rfl

/-- Settles O51: a row is its frame, and a frame's completion depends on the link state and the type of its code alone. -/
theorem broadcastExecutesWriteTypeOnly : Obligations.BroadcastExecutesWriteTypeOnly := by
  intro i s
  refine ⟨fun h hrow => ?_, fun h hrow => ?_, fun hst hrow => ?_⟩
  · obtain ⟨c, p, hf, htype⟩ := (isRow_iff i).2.mp hrow
    rw [exec_managementRow_broadcast h hf, if_neg (by simp [htype])]
  · obtain ⟨c, p, hf, htype⟩ := (isRow_iff i).1.mp hrow
    have hshort : p.length ≤ 48 := managementFrame_length hf ▸ c.payloadLength_le.trans (by decide)
    have hselected : SelectedListening { s with link := { s.link with state := .selected } } := ⟨h.1, rfl⟩
    refine ⟨_, _, _, (exec_of_managementFrame hf _).trans (congrArg _ (receiveFrame_answering hselected hshort)), ?_⟩
    rw [withLinkState_execute, exec_managementRow_broadcast h hf, if_pos htype]
  · have hframe : ∃ c p, managementFrame i = some (c, p) := by
      rcases Bool.or_eq_true_iff.mp hrow with hread | hwrite
      · obtain ⟨c, p, hf, -⟩ := (isRow_iff i).2.mp hread
        exact ⟨c, p, hf⟩
      · obtain ⟨c, p, hf, -⟩ := (isRow_iff i).1.mp hwrite
        exact ⟨c, p, hf⟩
    obtain ⟨c, p, hf⟩ := hframe
    rw [exec_of_managementFrame hf, receiveFrame_unselected s hst]

end Sys2Proof.Machine

/-! SUPPORT. The timers of the link: the gap timer and its timeout, the turnaround, and the response on MDO (R155, R164, R165). -/

namespace Sys2Proof.Machine

open Sys2Proof.Safety

-- One declaration at a time: elaborated side by side, the text outgrows the memory of the check.
set_option Elab.async false

variable {s t : State}

/-! ### Frame timeouts -/

/-- Where a frame timeout leaves a station that is within a frame, and whether it counts a link error; none outside a frame
(R164). -/
def timeoutOutcome : LinkState → Option (LinkState × Bool)
  | .receiving _ => some (.selected, true)
  | .broadcastReceiving _ => some (.broadcast, true)
  | .discarding wide => some (idleState wide, false)
  | .unselected | .selected | .broadcast | .responding _ => none

/-- The station is UNSELECTED, or it waits for a frame (R160). -/
abbrev Waiting (st : LinkState) : Prop := st = .unselected ∨ st = .selected ∨ st = .broadcast

/-- A timeout leaves the station waiting for a frame (R164). -/
theorem timeoutOutcome_waiting {st st' : LinkState} {counts : Bool} (h : timeoutOutcome st = some (st', counts)) :
    Waiting st' := by
  cases st with
  | receiving f => cases h; exact .inr (.inl rfl)
  | broadcastReceiving f => cases h; exact .inr (.inr rfl)
  | discarding wide => cases h; cases wide <;> simp [Waiting, idleState]
  | unselected | selected | broadcast | responding => cases h

theorem frameTimeoutEvent_of_frame {st : LinkState} {counts : Bool} (h : Listening s)
    (hquiet : startBitBegun s.link.receiver = false) (ho : timeoutOutcome s.link.state = some (st, counts)) :
    frameTimeoutEvent s = withLinkState st (if counts then withLinkError s else s) := by
  have hcond : (linkListens s && !startBitBegun s.link.receiver) = true := by
    rw [linkListens_of_listening h, hquiet]
    rfl
  unfold frameTimeoutEvent
  rw [if_pos hcond]
  cases hst : s.link.state with
  | receiving f | broadcastReceiving f | discarding wide => rw [hst] at ho; cases ho; rfl
  | unselected | selected | broadcast | responding => rw [hst] at ho; cases ho

theorem frameTimeoutEvent_of_no_frame (ho : timeoutOutcome s.link.state = none) : frameTimeoutEvent s = s := by
  unfold frameTimeoutEvent
  split
  · cases hst : s.link.state with
    | receiving f | broadcastReceiving f | discarding wide => rw [hst] at ho; cases ho
    | unselected | selected | broadcast | responding => rfl
  · rfl

/-- Once a start bit has begun there is no timeout (R164). -/
theorem frameTimeoutEvent_of_startBit (h : startBitBegun s.link.receiver = true) : frameTimeoutEvent s = s := by
  unfold frameTimeoutEvent
  rw [h, if_neg (by simp)]

theorem gapCheck_of_no_frame (ho : timeoutOutcome s.link.state = none) : gapCheck s = s := by
  unfold gapCheck
  rw [frameTimeoutEvent_of_no_frame ho, ite_self]

theorem gapCheck_of_early (h : s.link.gapTimer < 3 * Config.characterTime s.power.rate) : gapCheck s = s :=
  if_neg (Nat.not_le.mpr h)

theorem gapCheck_of_startBit (h : startBitBegun s.link.receiver = true) : gapCheck s = s := by
  unfold gapCheck
  rw [frameTimeoutEvent_of_startBit h, ite_self]

theorem gapCheck_of_over {st : LinkState} {counts : Bool} (h : Listening s)
    (hquiet : startBitBegun s.link.receiver = false) (ho : timeoutOutcome s.link.state = some (st, counts))
    (hgap : 3 * Config.characterTime s.power.rate ≤ s.link.gapTimer) :
    gapCheck s = withLinkState st (if counts then withLinkError s else s) :=
  (if_pos hgap).trans (frameTimeoutEvent_of_frame h hquiet ho)

/-! ### Timers -/

/-- One REFCLK cycle of a character left on MDO (R166). -/
def withMdoPassed (s : State) : State :=
  { s with link := { s.link with mdo := finishCharacter s.power.rate s.link.mdo } }

/-- Another link state while the gap timer goes on. -/
def withStateKept (st : LinkState) (s : State) : State := { s with link := { s.link with state := st } }

/-- Within a frame the gap timer counts (R164). -/
theorem linkTimers_of_frame {o : LinkState × Bool} (ho : timeoutOutcome s.link.state = some o) :
    linkTimers s = gapCycle (withMdoPassed s) := by
  unfold linkTimers
  cases hst : s.link.state with
  | receiving f | broadcastReceiving f | discarding wide => rfl
  | unselected | selected | broadcast | responding => rw [hst] at ho; cases ho

/-- A station that waits has no timer to count (R164, R165). -/
theorem linkTimers_of_waiting (hst : Waiting s.link.state) : linkTimers s = withMdoPassed s := by
  unfold linkTimers
  rcases hst with hst | hst | hst <;> rw [hst] <;> rfl

theorem timeoutOutcome_of_waiting {st : LinkState} (hst : Waiting st) : timeoutOutcome st = none := by
  rcases hst with rfl | rfl | rfl <;> rfl

theorem timeoutOutcome_of_responding {r : Response} (hst : s.link.state = .responding r) :
    timeoutOutcome s.link.state = none := by
  rw [hst]
  rfl

section
variable {r : Response} (hst : s.link.state = .responding r)
include hst

/-- The turnaround counts (R165). -/
theorem linkTimers_of_turnaround (hb : r.begun = false) (ht : r.turnaround + 1 < Config.characterTime s.power.rate) :
    linkTimers s = withStateKept (.responding { r with turnaround := r.turnaround + 1 }) (withMdoPassed s) := by
  unfold linkTimers
  rw [hst]
  simp only [hb, Bool.false_eq_true, if_false, if_pos ht]
  rfl

/-- The turnaround has passed, and the response begins (R165). -/
theorem linkTimers_begins (hb : r.begun = false) (ht : Config.characterTime s.power.rate ≤ r.turnaround + 1) :
    linkTimers s = beginResponse r s := by
  unfold linkTimers
  rw [hst]
  simp only [hb, Bool.false_eq_true, if_false, if_neg (Nat.not_lt.mpr ht)]

/-- A character of the response counts (R165). -/
theorem linkTimers_of_character (hb : r.begun = true) {c : MdoCharacter} (hc : s.link.mdo = some c)
    (ht : c.elapsed + 1 < Config.characterTime s.power.rate) :
    linkTimers s = { s with link := { s.link with mdo := some { c with elapsed := c.elapsed + 1 } } } := by
  unfold linkTimers
  rw [hst]
  simp only [hb, hc, finishCharacter, if_true, if_pos ht]

/-- A character of the response has ended, and the next begins, or the response ends (R165). -/
theorem linkTimers_next (hb : r.begun = true) {c : MdoCharacter} (hc : s.link.mdo = some c)
    (ht : Config.characterTime s.power.rate ≤ c.elapsed + 1) : linkTimers s = nextCharacter r s := by
  unfold linkTimers
  rw [hst]
  simp only [hb, hc, finishCharacter, if_true, if_neg (Nat.not_lt.mpr ht)]

/-- A response goes on, or it has ended and the station is SELECTED: it is within no frame (R165). -/
theorem linkTimers_no_frame : timeoutOutcome (linkTimers s).link.state = none := by
  unfold linkTimers nextCharacter
  rw [hst]
  dsimp only
  split
  · split
    · simp only [hst]; rfl
    · split <;> rfl
  · split <;> rfl

end

/-! ### A response on MDO -/

/-- Where the timers leave a station within no frame, a REFCLK cycle of a quiet line brings nothing further (R156, R164). -/
theorem linkCycle_quiet_of_no_frame (h : Listening s) (hq : LineQuiet s)
    (ho : timeoutOutcome (quietTimers s).link.state = none) :
    linkCycle s = { quietTimers s with link := { (quietTimers s).link with lowFor := 0 } } :=
  (linkCycle_quiet h hq).trans (gapCheck_of_no_frame ho)

/-- The station as a quiet line leaves it: ready for a start bit, and in no break (R156, R157). -/
def withQuietLine (s : State) : State := { s with link := { s.link with receiver := .ready, inBreak := false } }

/-- With MDI at rest, a REFCLK cycle of a station that responds is that of its response (R165, log 3). -/
theorem linkCycle_of_responding {r : Response} (h : ClockRunning s) (hq : LineQuiet s) (hst : s.link.state = .responding r) :
    (linkCycle s).link.state = (linkTimers (withQuietLine s)).link.state ∧
      (linkCycle s).link.mdo = (linkTimers (withQuietLine s)).link.mdo := by
  have hedge : mdiEdge s = mdiEdge (withQuietLine s) := by
    rw [mdiEdge_quiet h hq, mdiEdge_quiet (s := withQuietLine s) h ⟨hq.1, rfl⟩]
    rfl
  have hcycle : linkCycle s = linkCycle (withQuietLine s) := by
    unfold linkCycle linkMoment
    rw [hedge]
  have htimers : quietTimers (withQuietLine s) = linkTimers (withQuietLine s) :=
    congrArg linkTimers (gapCheck_of_no_frame (s := withQuietLine s) (timeoutOutcome_of_responding hst))
  have hframe : timeoutOutcome (quietTimers (withQuietLine s)).link.state = none := by
    rw [htimers]
    exact linkTimers_no_frame (s := withQuietLine s) hst
  rw [hcycle, linkCycle_quiet_of_no_frame (s := withQuietLine s) ⟨h, rfl⟩ ⟨hq.1, rfl⟩ hframe, htimers]
  exact ⟨rfl, rfl⟩

/-- The character of a response at its place in the frame (R165). -/
theorem beginCharacter_of_getElem? {r : Response} {b : Byte} (h : (responseFrame r)[r.sent]? = some b) :
    beginCharacter r = some { byte := b, elapsed := 0 } := by
  unfold beginCharacter
  rw [h]
  rfl

theorem encodeStatus_eq (st : Status) : encodeStatus st = statusByte st := by cases st <;> rfl

/-- The status byte is the first character of a response (R165). -/
theorem beginCharacter_first {r : Response} (h : r.sent = 0) :
    beginCharacter r = some { byte := statusByte r.status, elapsed := 0 } := by
  apply beginCharacter_of_getElem?
  rw [h, ← encodeStatus_eq]
  rfl

/-- A response frame sums to 0 (R165). -/
theorem responseFrame_sum (r : Response) : (responseFrame r).sum = 0 := by
  simp only [responseFrame, checkByte, List.sum_append, List.sum_cons, List.sum_nil]
  bv_omega

theorem responseFrame_length (r : Response) : (responseFrame r).length = r.payload.length + 3 := by
  simp [responseFrame]

/-- Settles O50: with MDI at rest a REFCLK cycle is that of the response, which the timers of the link take one cycle further. -/
theorem responseIsSentAndEnds : Obligations.ResponseIsSentAndEnds := by
  intro r s h hst
  have hclock := clockRuns_of_clockRunning h
  have turnaround : ∀ t, turnaroundEvent s = t → exec .responseTurnaround s = .next t :=
    fun t ht => congrArg Host.Outcome.next ht
  have ending : ∀ t, responseEndEvent s = t → exec .responseEnd s = .next t := fun t ht => congrArg Host.Outcome.next ht
  refine ⟨fun hb hsent => ⟨turnaround _ ?_, ending _ ?_⟩, fun hb => ⟨ending _ ?_, turnaround _ ?_⟩,
    fun t hp hq hstep => ?_, fun hlen => ⟨?_, responseFrame_length r, responseFrame_sum r⟩⟩
  · rw [turnaroundEvent, if_pos hclock, hst]
    simp only [hb, Bool.false_eq_true, if_false, beginResponse]
    rw [beginCharacter_first (r := { r with begun := true }) hsent]
  · rw [responseEndEvent, if_pos hclock, hst]
    simp [hb]
  · rw [responseEndEvent, if_pos hclock, hst]
    simp only [hb, if_true]
    rfl
  · rw [turnaroundEvent, if_pos hclock, hst]
    simp [hb]
  · obtain ⟨hstate, hmdo⟩ := linkCycle_of_responding h hq hst
    have hst' : (withQuietLine s).link.state = .responding r := hst
    rw [step_idle_link h hp hstep, hstate, hmdo, ← characterTime_eq]
    refine ⟨fun hb => ⟨fun hearly => ?_, fun hover => ?_⟩, fun c hb hc => ⟨fun hearly => ?_, fun b hover hnext => ?_,
      fun hover hlast => ?_⟩⟩
    · rw [linkTimers_of_turnaround hst' hb hearly]
      rfl
    · rw [linkTimers_begins hst' hb hover.ge]
      exact ⟨rfl, fun hsent => beginCharacter_first (r := { r with begun := true }) hsent⟩
    · rw [linkTimers_of_character hst' hb hc hearly]
      exact ⟨hst, rfl⟩
    · have hmore : r.sent + 1 < (responseFrame r).length := (List.getElem?_eq_some_iff.mp hnext).1
      rw [linkTimers_next hst' hb hc hover.ge, nextCharacter, if_pos hmore]
      exact ⟨by simp [hb], beginCharacter_of_getElem? (r := { r with sent := r.sent + 1, begun := true }) hnext⟩
    · rw [linkTimers_next hst' hb hc hover.ge, nextCharacter, if_neg hlast.not_lt]
      exact ⟨rfl, rfl⟩
  · rw [← encodeStatus_eq]
    simp [responseFrame]

end Sys2Proof.Machine

/-! SUPPORT. Framing errors, frame timeouts and breaks by link state, and the REFCLK cycle of MDI that each comes about in (R156, R157,
R164). -/

namespace Sys2Proof.Machine

open Sys2Proof.Safety

-- One declaration at a time: elaborated side by side, the text outgrows the memory of the check.
set_option Elab.async false

variable {s t : State}

/-! ### A frame on a quiet line -/

theorem linkCycle_quiet_eq (h : Listening s) (hq : LineQuiet s) :
    linkCycle s = gapCheck (setReceiver (quietTimers s).link.receiver 0 (quietTimers s)) := linkCycle_quiet h hq

/-- One REFCLK cycle of the gap timer at a receiver that is ready for a start bit (R164). -/
def gapCounted (s : State) : State := gapCycle (withMdoPassed (setReceiver .ready s.link.lowFor s))

/-- Until 3 character times have passed, a quiet cycle within a frame counts the gap timer (R164). -/
theorem quietTimers_of_early {o : LinkState × Bool} (ho : timeoutOutcome s.link.state = some o)
    (hgap : s.link.gapTimer < 3 * Config.characterTime s.power.rate) :
    quietTimers s = gapCounted s :=
  (congrArg linkTimers (gapCheck_of_early (s := setReceiver .ready s.link.lowFor s) hgap)).trans
    (linkTimers_of_frame (s := setReceiver .ready s.link.lowFor s) ho)

/-- Once 3 character times have passed, a quiet cycle within a frame begins with the timeout (R164). -/
theorem quietTimers_of_over {st : LinkState} {counts : Bool} (h : Listening s)
    (ho : timeoutOutcome s.link.state = some (st, counts))
    (hgap : 3 * Config.characterTime s.power.rate ≤ s.link.gapTimer) :
    quietTimers s = withMdoPassed (withLinkState st (if counts then withLinkError (setReceiver .ready s.link.lowFor s)
      else setReceiver .ready s.link.lowFor s)) := by
  have hcheck := gapCheck_of_over (s := setReceiver .ready s.link.lowFor s) h rfl ho hgap
  exact (congrArg linkTimers hcheck).trans (linkTimers_of_waiting (timeoutOutcome_waiting ho))

/-- Within a frame, the gap timer counts a cycle of a quiet line that ends before 3 character times have passed (R164). -/
theorem linkCycle_of_gap {o : LinkState × Bool} (h : Listening s) (hq : LineQuiet s)
    (ho : timeoutOutcome s.link.state = some o)
    (hgap : s.link.gapTimer + 1 < 3 * Config.characterTime s.power.rate) :
    (linkCycle s).link.state = s.link.state ∧ (linkCycle s).link.gapTimer = s.link.gapTimer + 1 := by
  rw [linkCycle_quiet_eq h hq, quietTimers_of_early ho (Nat.lt_of_succ_lt hgap), gapCheck_of_early]
  · exact ⟨rfl, rfl⟩
  · exact hgap

/-- Within a frame, a cycle of a quiet line with which 3 character times have passed brings the timeout, at its end or, where they had
passed before, at its begin (R164). -/
theorem linkCycle_of_timeout {st : LinkState} {counts : Bool} (h : Listening s) (hq : LineQuiet s)
    (ho : timeoutOutcome s.link.state = some (st, counts))
    (hgap : 3 * Config.characterTime s.power.rate ≤ s.link.gapTimer + 1) :
    (linkCycle s).link.state = st ∧
      (linkCycle s).link.errors = if counts then min (s.link.errors + 1) 255 else s.link.errors := by
  rw [linkCycle_quiet_eq h hq]
  by_cases hover : 3 * Config.characterTime s.power.rate ≤ s.link.gapTimer
  · rw [quietTimers_of_over h ho hover, gapCheck_of_no_frame]
    · cases counts <;> exact ⟨rfl, rfl⟩
    · exact timeoutOutcome_of_waiting (timeoutOutcome_waiting ho)
  · rw [quietTimers_of_early ho (Nat.lt_of_not_le hover), gapCheck_of_over (st := st) (counts := counts)]
    · cases counts <;> exact ⟨rfl, rfl⟩
    · exact h
    · rfl
    · exact ho
    · exact hgap

/-! ### One REFCLK cycle of MDI -/

/-- While the station listens, a level of MDI between two cycles is the receiver's (R156). -/
theorem mdiEdge_of_listening (h : Listening s) : mdiEdge s =
    handleLine (receiverEdge (mdiLevel s) s.link.receiver).2
      (setReceiver (receiverEdge (mdiLevel s) s.link.receiver).1 s.link.lowFor s) := by
  unfold mdiEdge
  simp only [h.2, Bool.false_and, Bool.false_eq_true, if_false]

/-- A moment at which no character or error ends and no frame times out (R156, R164). -/
theorem linkMoment_of_silence {r : Receiver} (h : Listening s) (hr : receiverEdge (mdiLevel s) s.link.receiver = (r, none))
    (hgap : gapCheck (setReceiver r s.link.lowFor s) = setReceiver r s.link.lowFor s) :
    linkMoment s = setReceiver r s.link.lowFor s := by
  unfold linkMoment
  rw [mdiEdge_of_listening h, hr]
  exact hgap

/-- A low level never settles a character: what the receiver then hands over comes with a high one (R156). -/
theorem receiverEdge_low (r : Receiver) : (receiverEdge false r).2 = none := by cases r <;> rfl

/-- The cycles that MDI has been low, as a cycle of the given level leaves them (R157). -/
def lowAfter (level : Bool) (low : Nat) : Nat := if level then 0 else low + 1

/-- A level of MDI has passed, with the receiver and the count of low cycles as it leaves them. -/
def levelPassed (r : Receiver) (low : Nat) (s : State) : State := setReceiver r low { s with mdi := s.mdi.drop 1 }

/-- While no low has lasted for a break, a cycle of MDI is the receiver's (R156, R157). -/
theorem mdiCycle_of_listening (h : Listening s)
    (hlow : lowAfter (mdiLevel s) s.link.lowFor < 2 * Config.characterTime s.power.rate) : mdiCycle s =
    handleLine (receiverCycle (Config.bitTime s.power.rate) (mdiLevel s) s.link.receiver).2
      (levelPassed (receiverCycle (Config.bitTime s.power.rate) (mdiLevel s) s.link.receiver).1
        (lowAfter (mdiLevel s) s.link.lowFor) s) := by
  have hno := Nat.not_le.mpr hlow
  unfold lowAfter at hno ⊢
  unfold mdiCycle
  simp only [h.2, Bool.false_eq_true, if_false, hno]
  rfl

/-- The state that a break leaves (R157). -/
def broken (s : State) : State :=
  { s with link := { s.link with
    state := .unselected, gapTimer := 0, mdo := none, inBreak := true, receiver := .waitHigh, lowFor := 0 } }

theorem breakEvent_of_listening (h : Listening s) : breakEvent s = broken s := if_pos (linkListens_of_listening h)

/-- A low of 2 character times is a break (R157). -/
theorem mdiCycle_of_break (h : Listening s)
    (hlow : 2 * Config.characterTime s.power.rate ≤ lowAfter (mdiLevel s) s.link.lowFor) :
    mdiCycle s = broken { s with mdi := s.mdi.drop 1 } := by
  unfold lowAfter at hlow
  unfold mdiCycle
  simp only [h.2, Bool.false_eq_true, if_false, hlow, if_true]
  exact breakEvent_of_listening (s := { s with mdi := _ }) h

theorem two_characterTimes_pos (rate : BitVec 2) : 0 < 2 * Config.characterTime rate := by
  have := bitTime_pos rate
  unfold Config.characterTime
  omega

/-- A receiver that waits for an idle high hands nothing over (R156). -/
theorem linkMoment_broken (s : State) : (linkMoment (broken s)).link.state = .unselected ∧
    (linkMoment (broken s)).link.mdo = none := by
  have edge : (mdiEdge (broken s)).link.state = .unselected ∧ (mdiEdge (broken s)).link.mdo = none := by
    unfold mdiEdge endOfBreakEvent
    generalize mdiLevel (broken s) = level
    cases level
    · exact ⟨rfl, rfl⟩
    · cases hopen : portsOpen (broken s) <;> exact ⟨rfl, rfl⟩
  unfold linkMoment
  rw [gapCheck_unselected edge.1]
  exact edge

theorem gapCheck_lowFor (s : State) : (gapCheck s).link.lowFor = s.link.lowFor := by
  unfold gapCheck frameTimeoutEvent
  repeat' split
  all_goals rfl

theorem linkTimers_lowFor (s : State) : (linkTimers s).link.lowFor = s.link.lowFor := by
  unfold linkTimers nextCharacter
  dsimp only
  repeat' split
  all_goals rfl

/-- A start bit that begins at the end of the cycle with which 3 character times have passed is in time (R164). -/
theorem linkCycle_of_startBit {o : LinkState × Bool} {rest : List Bool} (h : Listening s)
    (hmdi : s.mdi = true :: false :: rest) (hready : s.link.receiver = .ready) (ho : timeoutOutcome s.link.state = some o)
    (hgap : s.link.gapTimer < 3 * Config.characterTime s.power.rate) :
    (linkCycle s).link.state = s.link.state ∧ (linkCycle s).link.receiver = .character 0 [] := by
  have begins : linkMoment s = setReceiver .ready s.link.lowFor s := by
    refine linkMoment_of_silence h ?_ (gapCheck_of_early hgap)
    rw [mdiLevel, hmdi, hready]
    rfl
  have htimers : linkTimers (setReceiver .ready s.link.lowFor s) = gapCounted s :=
    linkTimers_of_frame (s := setReceiver .ready s.link.lowFor s) ho
  have hlevel : mdiLevel (gapCounted s) = true := congrArg (fun l => l.headD true) hmdi
  have hcycle : mdiCycle (gapCounted s) = levelPassed .ready 0 (gapCounted s) := by
    rw [mdiCycle_of_listening (s := gapCounted s) h, hlevel]
    · rfl
    · rw [hlevel]
      exact two_characterTimes_pos _
  have hfall : mdiLevel (levelPassed .ready 0 (gapCounted s)) = false := congrArg (fun l => (l.drop 1).headD true) hmdi
  have ends : linkMoment (levelPassed .ready 0 (gapCounted s)) = setReceiver (.character 0 []) 0
      (levelPassed .ready 0 (gapCounted s)) := by
    refine linkMoment_of_silence (s := levelPassed .ready 0 (gapCounted s)) h ?_ (gapCheck_of_startBit rfl)
    rw [hfall]
    rfl
  unfold linkCycle
  rw [begins, htimers, hcycle, ends]
  exact ⟨rfl, rfl⟩

/-- Outside a frame a framing error is counted and the station stays (R164). -/
theorem framingErrorEvent_of_idle (h : Listening s)
    (hst : s.link.state = .selected ∨ s.link.state = .broadcast ∨ ∃ r, s.link.state = .responding r) :
    framingErrorEvent s = withLinkError s := by
  rw [framingErrorEvent, if_pos (linkListens_of_listening h)]
  rcases hst with hst | hst | ⟨r, hst⟩ <;> rw [hst] <;> rfl

/-- A SELECTED station that has counted the framing error with which a rise settles a character (R156, R164). -/
def riseSettled (s : State) : State := withLinkError (setReceiver .ready s.link.lowFor s)

/-- A rise settles a stop bit of 0 as a framing error, which a SELECTED station counts (R156, R164). -/
theorem linkCycle_of_rise (h : Listening s) (hmdi : s.mdi = []) (hopen : s.link.receiver = .unsettled)
    (hst : s.link.state = .selected) : (linkCycle s).link.state = .selected ∧
      (linkCycle s).link.errors = min (s.link.errors + 1) 255 ∧ (linkCycle s).link.receiver = .ready := by
  have hwait : Waiting (riseSettled s).link.state := .inr (.inl hst)
  have hquiet : LineQuiet (riseSettled s) := ⟨hmdi, rfl⟩
  have hrise : mdiEdge s = riseSettled s := by
    rw [mdiEdge_of_listening h, mdiLevel, hmdi, hopen]
    exact framingErrorEvent_of_idle (s := setReceiver .ready s.link.lowFor s) h (.inl hst)
  have hsame : mdiEdge (riseSettled s) = riseSettled s := by
    rw [mdiEdge_of_listening (s := riseSettled s) h, mdiLevel, hquiet.1]
    rfl
  have hcycle : linkCycle s = linkCycle (riseSettled s) := by
    unfold linkCycle linkMoment
    rw [hrise, hsame]
  have htimers : quietTimers (riseSettled s) = withMdoPassed (riseSettled s) :=
    (congrArg linkTimers (gapCheck_of_no_frame (timeoutOutcome_of_waiting hwait))).trans (linkTimers_of_waiting hwait)
  rw [hcycle, linkCycle_quiet_of_no_frame (s := riseSettled s) h hquiet
    (by rw [htimers]; exact timeoutOutcome_of_waiting hwait), htimers]
  exact ⟨hst, rfl, rfl⟩

/-- At a low level between two cycles no more than a frame timeout comes about (R156, R164). -/
theorem linkMoment_of_low (h : Listening s) (hlevel : mdiLevel s = false) :
    ∃ r, linkMoment s = gapCheck (setReceiver r s.link.lowFor s) := by
  refine ⟨(receiverEdge false s.link.receiver).1, ?_⟩
  unfold linkMoment
  rw [mdiEdge_of_listening h, hlevel, receiverEdge_low]
  rfl

/-- The cycle with which MDI has been low for 2 character times brings a break, whatever came about at its begin (R157). -/
theorem linkCycle_of_break {rest : List Bool} (h : Listening s) (hmdi : s.mdi = false :: rest)
    (hlow : 2 * Config.characterTime s.power.rate ≤ s.link.lowFor + 1) :
    (linkCycle s).link.state = .unselected ∧ (linkCycle s).link.mdo = none := by
  obtain ⟨r, begins⟩ := linkMoment_of_low h (by rw [mdiLevel, hmdi]; rfl)
  obtain ⟨gmdi, -, gbreak, gpower, -⟩ := gapCheck_frame (setReceiver r s.link.lowFor s)
  obtain ⟨tmdi, -, tbreak, tpower⟩ := linkTimers_frame (linkMoment s)
  rw [begins] at tmdi tbreak tpower
  have hpower := tpower.trans gpower
  have hleft : (linkTimers (gapCheck (setReceiver r s.link.lowFor s))).mdi = false :: rest :=
    (tmdi.trans gmdi).trans hmdi
  have hlistens : Listening (linkTimers (gapCheck (setReceiver r s.link.lowFor s))) := by
    rw [Listening, ClockRunning, hpower, tbreak, gbreak]
    exact h
  unfold linkCycle
  rw [begins, mdiCycle_of_break hlistens]
  · exact linkMoment_broken _
  · rw [hpower, mdiLevel, hleft, linkTimers_lowFor, gapCheck_lowFor]
    exact hlow

/-! ### Events by link state -/

/-- Settles O49: a frame that a timeout ends is one of the three that `timeoutOutcome` names, and each clause on MDI is one REFCLK cycle
of the link. -/
theorem framingErrorTimeoutAndBreak : Obligations.FramingErrorTimeoutAndBreak := by
  refine ⟨fun s h => ?_, fun s h => ⟨fun hbegun => ?_, fun hquiet => ⟨fun hst => ?_, fun f hst => ?_, fun f hst => ?_,
    fun wide hst => ?_⟩⟩, fun s => ⟨fun h => ?_, fun h => ?_, fun b hbreak => ?_⟩, fun s t h hp hstep => ?_⟩
  · have event : ∀ t, framingErrorEvent s = t → exec .framingError s = .next t := fun t ht => congrArg Host.Outcome.next ht
    have hl := linkListens_of_listening h
    refine ⟨fun hst => event _ ?_, fun hst => event _ (framingErrorEvent_of_idle h hst), fun f hst => event _ ?_,
      fun f hst => event _ ?_, fun wide hst => event _ ?_⟩
    · rw [framingErrorEvent, if_pos hl, hst]
    · rw [framingErrorEvent, if_pos hl, hst]; rfl
    · rw [framingErrorEvent, if_pos hl, hst]; rfl
    · rw [framingErrorEvent, if_pos hl, hst]; rfl
  · exact congrArg Host.Outcome.next (frameTimeoutEvent_of_startBit hbegun)
  · refine congrArg Host.Outcome.next (frameTimeoutEvent_of_no_frame ?_)
    rcases hst with hst | hst | hst | ⟨r, hst⟩ <;> rw [hst] <;> rfl
  · exact congrArg Host.Outcome.next (frameTimeoutEvent_of_frame (counts := true) h hquiet (by rw [hst]; rfl))
  · exact congrArg Host.Outcome.next (frameTimeoutEvent_of_frame (counts := true) h hquiet (by rw [hst]; rfl))
  · exact congrArg Host.Outcome.next (frameTimeoutEvent_of_frame (counts := false) h hquiet (by rw [hst]; rfl))
  · exact congrArg Host.Outcome.next (breakEvent_of_listening h)
  · exact congrArg Host.Outcome.next (if_pos (portsOpen_of_running h))
  · have hdeaf : linkListens s = false := by simp [linkListens, hbreak]
    refine ⟨congrArg Host.Outcome.next ?_, congrArg Host.Outcome.next ?_, congrArg Host.Outcome.next ?_,
      congrArg Host.Outcome.next ?_, congrArg Host.Outcome.next ?_⟩
    · simp [breakEvent, hdeaf]
    · simp [selectEvent, hdeaf]
    · simp [dataEvent, hdeaf]
    · simp [framingErrorEvent, hdeaf]
    · simp [frameTimeoutEvent, hdeaf]
  · have hframe : ((∃ f, s.link.state = .receiving f) ∨ (∃ f, s.link.state = .broadcastReceiving f) ∨
        ∃ wide, s.link.state = .discarding wide) → ∃ o, timeoutOutcome s.link.state = some o := by
      rintro (⟨f, hst⟩ | ⟨f, hst⟩ | ⟨wide, hst⟩) <;> rw [hst] <;> exact ⟨_, rfl⟩
    rw [step_idle_link h.1 hp hstep]
    dsimp only
    rw [← characterTime_eq]
    refine ⟨fun hq hin hgap => ?_, fun hq hgap => ⟨fun f hst => ?_, fun f hst => ?_, fun wide hst => ?_⟩,
      fun rest hmdi hready hin hgap => ?_, fun hmdi hopen hst => linkCycle_of_rise h hmdi hopen hst,
      fun rest hmdi hlow => linkCycle_of_break h hmdi hlow.ge⟩
    · obtain ⟨o, ho⟩ := hframe hin
      exact linkCycle_of_gap h hq ho hgap
    · exact linkCycle_of_timeout (counts := true) h hq (by rw [hst]; rfl) hgap
    · exact linkCycle_of_timeout (counts := true) h hq (by rw [hst]; rfl) hgap
    · exact linkCycle_of_timeout (counts := false) h hq (by rw [hst]; rfl) hgap
    · obtain ⟨o, ho⟩ := hframe hin
      exact linkCycle_of_startBit h hmdi hready ho (hgap ▸ Nat.lt_succ_self _)

end Sys2Proof.Machine

/-! SUPPORT. A character on MDI, from its levels to the event it is received as: one bit time a bit, each bit sampled in its middle
(R155, R156, R158, R160). -/

namespace Sys2Proof.Machine

open Sys2Proof.Safety

-- One declaration at a time: elaborated side by side, the text outgrows the memory of the check.
set_option Elab.async false

variable {s t : State} {value : Byte} {mark : Bool} {rate : BitVec 2} {k : Nat}

/-! ### Bits and levels -/

theorem length_characterBits (value : Byte) (mark : Bool) : (characterBits value mark).length = 11 := by
  simp [characterBits]

/-- The stop bit is high (R156). -/
theorem characterBits_stop (value : Byte) (mark : Bool) : (characterBits value mark)[10]? = some true := by
  simp [characterBits]

/-- What is sampled of a whole character: the data bits and the mark bit (R156). -/
theorem characterBits_sampled (value : Byte) (mark : Bool) :
    ((characterBits value mark).drop 1).take 9 = (List.range 8).map (fun i => value.getLsbD i) ++ [mark] := rfl

/-- Levels that last `bit` cycles each: the level of a cycle is that of its bit. -/
theorem getElem?_flatMap_replicate {bit : Nat} (hbit : 0 < bit) (levels : List Bool) (k : Nat) :
    (levels.flatMap fun level => List.replicate bit level)[k]? = levels[k / bit]? := by
  induction levels generalizing k with
  | nil => rfl
  | cons level rest ih =>
    rw [List.flatMap_cons, List.getElem?_append, List.length_replicate]
    split
    next hk => simp [hk, Nat.div_eq_of_lt hk]
    next hk =>
      have hk : bit ≤ k := Nat.le_of_not_lt hk
      rw [ih, Nat.div_eq_sub_div hbit hk]
      rfl

/-- The level on MDI in a cycle of a character is that of the bit the cycle lies in (R155, R156). -/
theorem characterLevels_getElem? (rate : BitVec 2) (value : Byte) (mark : Bool) (k : Nat) :
    (characterLevels (Config.bitTime rate) value mark)[k]? = (characterBits value mark)[k / Config.bitTime rate]? :=
  getElem?_flatMap_replicate (Nat.lt_of_lt_of_le (by decide) (bitTime_pos rate)) _ k

theorem length_characterLevels (bit : Nat) (value : Byte) (mark : Bool) :
    (characterLevels bit value mark).length = 11 * bit := by
  simp only [characterLevels, List.length_flatMap, List.length_replicate, List.map_const', List.sum_replicate,
    length_characterBits, smul_eq_mul]

/-- The first bit is the least significant one (R156). -/
theorem byteOfBits_getLsbD (bits : List Bool) {i : Nat} (hi : i < 8) : (byteOfBits bits).getLsbD i = bits.getD i false := by
  induction bits generalizing i with
  | nil => simp [byteOfBits]
  | cons bit rest ih =>
    have hcons : byteOfBits (bit :: rest) = (byteOfBits rest <<< 1) ||| (if bit then 1 else 0) := rfl
    rw [hcons, BitVec.getLsbD_or, BitVec.getLsbD_shiftLeft]
    cases i with
    | zero => cases bit <;> simp
    | succ i =>
      have hzero : (if bit then 1 else 0 : Byte).getLsbD (i + 1) = false := by cases bit <;> simp
      rw [hzero]
      simp [hi, ih (Nat.lt_of_succ_lt hi)]

/-- The data bits, least significant first, make the byte (R156). -/
theorem byteOfBits_bits (value : Byte) : byteOfBits ((List.range 8).map fun i => value.getLsbD i) = value := by
  apply BitVec.eq_of_getLsbD_eq
  intro i hi
  rw [byteOfBits_getLsbD _ hi]
  simp [List.getD, hi]

/-- The bits of a character make the select value with mark 1, the data byte with mark 0 (R156). -/
theorem characterOfBits_sampled (value : Byte) (mark : Bool) :
    characterOfBits (((characterBits value mark).drop 1).take 9) = if mark then .select value else .data value := by
  have htake : (((List.range 8).map (fun i => value.getLsbD i)) ++ [mark]).take 8 =
      (List.range 8).map fun i => value.getLsbD i := rfl
  rw [characterBits_sampled, characterOfBits, htake, byteOfBits_bits]
  rfl

/-! ### The receiver of a character -/

/-- What the receiver holds of a character `k` cycles after its fall: the bits sampled so far (R156). -/
def receiverAt (rate : BitVec 2) (value : Byte) (mark : Bool) (k : Nat) : Receiver :=
  .character k (((characterBits value mark).drop 1).take (sampledBits (Config.bitTime rate) k))

/-- From the stop bit on MDI is high (R156). -/
theorem level_of_stop {level : Bool} (hk : 10 * Config.bitTime rate ≤ k) (hend : k < 11 * Config.bitTime rate)
    (hlevel : (characterBits value mark)[k / Config.bitTime rate]? = some level) : level = true := by
  have hstop : k / Config.bitTime rate = 10 := by
    rcases bitTime_cases rate with h | h | h | h <;> rw [h] at hk hend ⊢ <;> omega
  rw [hstop, characterBits_stop] at hlevel
  exact (Option.some.inj hlevel).symm

/-- A cycle before the last of a character takes the receiver one cycle further (R156). -/
theorem receiverCycle_within {level : Bool} (hk : k + 1 < 11 * Config.bitTime rate)
    (hlevel : (characterBits value mark)[k / Config.bitTime rate]? = some level) :
    receiverCycle (Config.bitTime rate) level (receiverAt rate value mark k) = (receiverAt rate value mark (k + 1), none) := by
  unfold receiverAt receiverCycle
  dsimp only
  by_cases hbits : k < 10 * Config.bitTime rate
  · rw [if_pos hbits, sampledBits_succ rate hbits]
    cases hs : samplesBit (Config.bitTime rate) k with
    | false => rfl
    | true =>
      rw [sampledBits_of_samples rate hbits hs] at hlevel
      simp [List.take_add_one, hlevel]
  · have hstop : 10 * Config.bitTime rate ≤ k := Nat.le_of_not_lt hbits
    rw [if_neg hbits, level_of_stop hstop (Nat.lt_of_succ_lt hk) hlevel, if_neg (by simp), if_pos hk,
      sampledBits_of_stop rate hstop, sampledBits_of_stop rate (Nat.le_succ_of_le hstop)]

/-- The last cycle of a character hands it over (R156). -/
theorem receiverCycle_last {level : Bool} (hk : k + 1 = 11 * Config.bitTime rate)
    (hlevel : (characterBits value mark)[k / Config.bitTime rate]? = some level) : level = true ∧
      receiverCycle (Config.bitTime rate) level (receiverAt rate value mark k) =
        (.ready, some (if mark then .select value else .data value)) := by
  have hstop : 10 * Config.bitTime rate ≤ k := by
    have := bitTime_pos rate
    omega
  obtain rfl := level_of_stop hstop (by omega) hlevel
  refine ⟨rfl, ?_⟩
  unfold receiverAt receiverCycle
  dsimp only
  rw [if_neg (Nat.not_lt.mpr hstop), if_neg (by simp), if_neg hk.not_lt, sampledBits_of_stop rate hstop,
    characterOfBits_sampled]
  rfl

/-! ### One REFCLK cycle of a character -/

@[simp] theorem gridCycle_mdi (s : State) : (gridCycle s).mdi = s.mdi := by
  unfold gridCycle tickEvent pastRestart sliceBoundaryEvent
  repeat' split
  all_goals simp

@[simp] theorem gridCycle_pending (s : State) : (gridCycle s).pending = s.pending := by
  unfold gridCycle tickEvent pastRestart sliceBoundaryEvent
  repeat' split
  all_goals simp

@[simp] theorem gridCycle_power (s : State) : (gridCycle s).power = s.power := by
  unfold gridCycle tickEvent pastRestart sliceBoundaryEvent
  repeat' split
  all_goals simp

theorem step_of_clock (h : ClockRunning s) (hp : s.pending = []) : step s = .next (gridCycle (linkCycle s)) := by
  rw [step_idle hp, refclkCycle, if_pos (clockRuns_of_clockRunning h)]

/-- A station that waits is `k` cycles into a character on MDI (R156). -/
structure InCharacter (value : Byte) (mark : Bool) (rest : List Bool) (k : Nat) (s : State) : Prop where
  listens : Listening s
  pending : s.pending = []
  waits : Waiting s.link.state
  mdi : s.mdi = (characterLevels (Config.bitTime s.power.rate) value mark).drop k ++ rest
  low : s.link.lowFor ≤ k
  edge : receiverEdge (mdiLevel s) s.link.receiver = (receiverAt s.power.rate value mark k, none)

/-- What is left on MDI after a cycle of a waiting station, with its receiver at the given place. -/
def cyclePassed (r : Receiver) (low : Nat) (s : State) : State := levelPassed r low (withMdoPassed s)

variable {rest : List Bool}

/-- The level of a cycle of the character, and the levels behind it. -/
theorem InCharacter.level (h : InCharacter value mark rest k s) (hk : k < 11 * Config.bitTime s.power.rate) :
    (characterBits value mark)[k / Config.bitTime s.power.rate]? = some (mdiLevel s) ∧
      s.mdi.drop 1 = (characterLevels (Config.bitTime s.power.rate) value mark).drop (k + 1) ++ rest := by
  have hlt : k < (characterLevels (Config.bitTime s.power.rate) value mark).length := by
    rwa [length_characterLevels]
  rw [← characterLevels_getElem?, mdiLevel, h.mdi, List.drop_eq_getElem_cons hlt, List.getElem?_eq_getElem hlt]
  exact ⟨rfl, rfl⟩

theorem lowAfter_le (level : Bool) {low k : Nat} (h : low ≤ k) : lowAfter level low ≤ k + 1 := by
  unfold lowAfter
  split <;> omega

/-- A cycle of a character, up to what the receiver hands over at its end (R156). -/
theorem InCharacter.linkCycle_eq (h : InCharacter value mark rest k s) (hk : k < 11 * Config.bitTime s.power.rate) :
    linkCycle s = linkMoment (handleLine
      (receiverCycle (Config.bitTime s.power.rate) (mdiLevel s) (receiverAt s.power.rate value mark k)).2
      (cyclePassed (receiverCycle (Config.bitTime s.power.rate) (mdiLevel s) (receiverAt s.power.rate value mark k)).1
        (lowAfter (mdiLevel s) s.link.lowFor) s)) := by
  have begins := linkMoment_of_silence h.listens h.edge (gapCheck_of_startBit rfl)
  have htimers := linkTimers_of_waiting (s := setReceiver (receiverAt s.power.rate value mark k) s.link.lowFor s) h.waits
  have hlow : lowAfter (mdiLevel s) s.link.lowFor < 2 * Config.characterTime s.power.rate := by
    have := lowAfter_le (mdiLevel s) h.low
    unfold Config.characterTime
    omega
  have hcycle := mdiCycle_of_listening
    (s := withMdoPassed (setReceiver (receiverAt s.power.rate value mark k) s.link.lowFor s)) h.listens hlow
  unfold linkCycle
  rw [begins, htimers, hcycle]
  rfl

/-- A cycle before the last of a character brings the link nothing but the passing of the cycle (R156). -/
theorem InCharacter.linkCycle_within (h : InCharacter value mark rest k s)
    (hk : k + 1 < 11 * Config.bitTime s.power.rate) : linkCycle s =
      cyclePassed (receiverAt s.power.rate value mark (k + 1)) (lowAfter (mdiLevel s) s.link.lowFor) s := by
  have hlt := Nat.lt_of_succ_lt hk
  rw [h.linkCycle_eq hlt, receiverCycle_within hk (h.level hlt).1]
  exact linkMoment_of_silence (s := cyclePassed _ _ s) h.listens rfl (gapCheck_of_startBit rfl)

/-- A cycle before the last of a character leads one cycle further into it. -/
theorem InCharacter.next (h : InCharacter value mark rest k s) (hk : k + 1 < 11 * Config.bitTime s.power.rate) :
    ∃ t, step s = .next t ∧ InCharacter value mark rest (k + 1) t ∧ t.power = s.power ∧
      t.link.state = s.link.state := by
  refine ⟨_, step_of_clock h.listens.1 h.pending, ?_, ?_, ?_⟩ <;> rw [h.linkCycle_within hk]
  · refine ⟨?_, ?_, ?_, ?_, ?_, ?_⟩
    · rw [Listening, ClockRunning, gridCycle_power, gridCycle_link]
      exact h.listens
    · rw [gridCycle_pending]
      exact h.pending
    · rw [gridCycle_link]
      exact h.waits
    · rw [gridCycle_mdi, gridCycle_power]
      exact (h.level (Nat.lt_of_succ_lt hk)).2
    · rw [gridCycle_link]
      exact lowAfter_le (mdiLevel s) h.low
    · rw [gridCycle_link, gridCycle_power]
      rfl
  · rw [gridCycle_power]
    rfl
  · rw [gridCycle_link]
    rfl

/-! ### The end of a character -/

theorem selectEvent_of_listening (h : Listening s) (value : Byte) :
    selectEvent value s = withLinkState (selectedState s.power.station value) s := if_pos (linkListens_of_listening h)

/-- The link state a character gives a station that waits: by its value with mark 1; with mark 0 a frame begins, unless the station is
UNSELECTED (R158, R160). -/
def stateAfter (value : Byte) (mark : Bool) (s : State) : LinkState :=
  if mark then selectedState s.power.station value
  else match s.link.state with
    | .selected => .receiving (frameOf value)
    | .broadcast => .broadcastReceiving (frameOf value)
    | st => st

/-- A moment at a receiver that is ready brings no event: at most a start bit begins (R156). -/
theorem linkMoment_of_ready (h : Listening s) (hready : s.link.receiver = .ready)
    (hgap : timeoutOutcome s.link.state = none ∨ s.link.gapTimer = 0) :
    (linkMoment s).link.state = s.link.state ∧ (linkMoment s).mdi = s.mdi := by
  have hedge : ∃ r, receiverEdge (mdiLevel s) s.link.receiver = (r, none) := by
    rw [hready]
    exact ⟨_, rfl⟩
  obtain ⟨r, hr⟩ := hedge
  have hcheck : gapCheck (setReceiver r s.link.lowFor s) = setReceiver r s.link.lowFor s := by
    rcases hgap with hnone | hzero
    · exact gapCheck_of_no_frame hnone
    · refine gapCheck_of_early ?_
      show s.link.gapTimer < 3 * (11 * Config.bitTime s.power.rate)
      have := bitTime_pos s.power.rate
      omega
  rw [linkMoment_of_silence h hr hcheck]
  exact ⟨rfl, rfl⟩

/-- A character that a waiting station receives, up to the end of its last cycle (R158, R160). -/
theorem linkMoment_of_character (h : Listening s) (hready : s.link.receiver = .ready) (hwait : Waiting s.link.state)
    (value : Byte) (mark : Bool) :
    (linkMoment (handleLine (some (if mark then .select value else .data value)) s)).link.state = stateAfter value mark s ∧
      (linkMoment (handleLine (some (if mark then .select value else .data value)) s)).mdi = s.mdi := by
  cases mark with
  | true =>
    show (linkMoment (selectEvent value s)).link.state = _ ∧ (linkMoment (selectEvent value s)).mdi = _
    rw [selectEvent_of_listening h]
    exact linkMoment_of_ready (s := withLinkState _ s) h hready (.inr rfl)
  | false =>
    show (linkMoment (dataEvent value s)).link.state = _ ∧ (linkMoment (dataEvent value s)).mdi = _
    unfold stateAfter
    rcases hwait with hst | hst | hst
    · obtain ⟨hstate, hmdi⟩ := linkMoment_of_ready h hready (.inl (timeoutOutcome_of_waiting (.inl hst)))
      rw [dataEvent_of_unselected value h hst, hst]
      exact ⟨hstate.trans hst, hmdi⟩
    · rw [dataEvent_of_idle (bc := false) value h hst, hst]
      exact linkMoment_of_ready (s := withLinkState _ s) h hready (.inr rfl)
    · rw [dataEvent_of_idle (bc := true) value h hst, hst]
      exact linkMoment_of_ready (s := withLinkState _ s) h hready (.inr rfl)

/-- The last cycle of a character (R156, R158, R160). -/
theorem InCharacter.last (h : InCharacter value mark rest k s) (hk : k + 1 = 11 * Config.bitTime s.power.rate) :
    ∃ t, step s = .next t ∧ t.mdi = rest ∧ t.link.state = stateAfter value mark s := by
  have hlt : k < 11 * Config.bitTime s.power.rate := hk ▸ Nat.lt_succ_self k
  obtain ⟨hlevel, hmdi⟩ := h.level hlt
  obtain ⟨hhigh, hlast⟩ := receiverCycle_last hk hlevel
  have hcycle : linkCycle s = linkMoment (handleLine (some (if mark then .select value else .data value))
      (cyclePassed .ready 0 s)) := by
    rw [h.linkCycle_eq hlt, hlast, hhigh]
    rfl
  obtain ⟨hstate, hleft⟩ :=
    linkMoment_of_character (s := cyclePassed .ready 0 s) h.listens rfl h.waits value mark
  refine ⟨_, step_of_clock h.listens.1 h.pending, ?_, ?_⟩
  · rw [gridCycle_mdi, hcycle, hleft]
    show s.mdi.drop 1 = rest
    rw [hmdi, hk, ← length_characterLevels _ value mark, List.drop_length, List.nil_append]
  · rw [gridCycle_link, hcycle, hstate]
    rfl

/-- The rest of a character, cycle by cycle. -/
theorem InCharacter.received {n : Nat} (h : InCharacter value mark rest k s)
    (hn : k + n + 1 = 11 * Config.bitTime s.power.rate) :
    ∃ t, stepsTo (n + 1) s t ∧ t.mdi = rest ∧ t.link.state = stateAfter value mark s := by
  induction n generalizing k s with
  | zero =>
    obtain ⟨t, hstep, hmdi, hstate⟩ := h.last hn
    exact ⟨t, ⟨t, hstep, rfl⟩, hmdi, hstate⟩
  | succ n ih =>
    obtain ⟨u, hstep, hu, hpower, hstate⟩ := h.next (by omega)
    obtain ⟨t, hsteps, hmdi, hafter⟩ := ih hu (by rw [hpower]; omega)
    refine ⟨t, ⟨u, hstep, hsteps⟩, hmdi, ?_⟩
    rw [hafter, stateAfter, hpower, hstate]
    rfl

/-- A fall at a receiver that is ready begins a character (R156). -/
theorem inCharacter_zero (h : Listening s) (hp : s.pending = []) (hready : s.link.receiver = .ready)
    (hlow : s.link.lowFor = 0) (hmdi : s.mdi = characterLevels (Config.bitTime s.power.rate) value mark ++ rest)
    (hwait : Waiting s.link.state) : InCharacter value mark rest 0 s where
  listens := h
  pending := hp
  waits := hwait
  mdi := hmdi
  low := hlow.le
  edge := by
    have hpos : 0 < (characterLevels (Config.bitTime s.power.rate) value mark).length := by
      have := bitTime_pos s.power.rate
      rw [length_characterLevels]
      omega
    have hlevel : mdiLevel s = false := by
      have hstart := characterLevels_getElem? s.power.rate value mark 0
      rw [Nat.zero_div, List.getElem?_eq_getElem hpos] at hstart
      rw [mdiLevel, hmdi, ← List.drop_zero (l := characterLevels _ _ _), List.drop_eq_getElem_cons hpos]
      exact Option.some.inj hstart
    rw [hlevel, hready]
    simp [receiverEdge, receiverAt, sampledBits]

/-- Settles O47: a station that waits is led through the character cycle by cycle, and takes it as the event of its mark bit. -/
theorem selectCharacterMovesTheStation : Obligations.SelectCharacterMovesTheStation := by
  refine ⟨fun value s h => ?_, fun value mark rest s h hp => ?_⟩
  · have select : ∀ st, selectedState s.power.station value = st →
        exec (.selectCharacter value) s = .next (withLinkState st s) := fun st hst =>
      congrArg Host.Outcome.next (hst ▸ selectEvent_of_listening h value)
    refine ⟨fun hall => select _ (if_pos hall), fun hall hown => select _ ?_, fun hall hother => select _ ?_⟩
    · exact (if_neg hall).trans (if_pos hown)
    · exact (if_neg hall).trans (if_neg hother)
  · dsimp only
    rw [← bitTime_eq]
    intro hready hlow hmdi hwait
    have hpos := bitTime_pos s.power.rate
    obtain ⟨t, hsteps, hleft, hstate⟩ := (inCharacter_zero h hp hready hlow hmdi hwait).received
      (n := 11 * Config.bitTime s.power.rate - 1) (by omega)
    rw [Nat.sub_add_cancel (by omega)] at hsteps
    refine ⟨t, hsteps, hleft, fun hmark => ?_, fun hmark => ⟨fun hst => ?_, fun hst => ?_, fun hst => ?_⟩⟩
    · rw [hstate, stateAfter, hmark]
      rfl
    · rw [hstate, stateAfter, hmark, hst]
      rfl
    · rw [hstate, stateAfter, hmark, hst]
      rfl
    · rw [hstate, stateAfter, hmark, hst]
      rfl

end Sys2Proof.Machine

/-! SUPPORT. What the four checks of the Command Executor refuse (R170), and the reports of the two copies of the configuration
(R175, R177, R190 to R192). -/

namespace Sys2Proof.Machine

open Sys2Proof.Safety

variable {s : State}

/-! ### The four checks -/

/-- A code that names no command is refused by the first check (R170, R171). -/
theorem execute_of_unknown {code : Byte} (h : commandOf code = none) (p : List Byte) (s : State) :
    execute code p s = (s, replyOnly .unknownCommand) := by
  rw [execute, h]

section
variable {c : Command} {p : List Byte}

theorem execute_of_bad_length (h : p.length ≠ c.payloadLength) : execute c.code p s = (s, replyOnly .badPayload) := by
  rw [execute_code, if_pos h]

theorem execute_of_out_of_range (hlength : p.length = c.payloadLength) (h : payloadInRange c p = false) :
    execute c.code p s = (s, replyOnly .range) := by
  rw [execute_code, if_neg (not_not.mpr hlength), if_pos (by rw [h]; rfl)]

theorem execute_of_pending (hlength : p.length = c.payloadLength) (hrange : payloadInRange c p = true)
    (hc : c.refusedWhilePending = true) (hp : s.store.commitPending = true) :
    execute c.code p s = (s, replyOnly .pending) := by
  rw [execute_code, if_neg (not_not.mpr hlength), if_neg (by rw [hrange]; decide), if_pos (by rw [hc, hp]; rfl)]

end

/-- Settles O46: each check, where those before it pass, gives the status and the state as it was. -/
theorem executorRefusalsChangeNothing : Obligations.ExecutorRefusalsChangeNothing := by
  refine ⟨fun code payload s h hshort hcode => ?_, fun c payload s =>
    ⟨execute_of_bad_length, execute_of_out_of_range, execute_of_pending⟩⟩
  have hframe : exec (.unknownCommand code payload) s = .next (receiveFrame code payload s) := rfl
  rw [hframe, receiveFrame_answering h hshort, execute_of_unknown (commandOf_eq_none hcode)]
  rfl

/-! ### Reports of the configuration -/

section
variable (index copy : Byte)

theorem payloadInRange_readAccount :
    payloadInRange .readAccount [index, copy] = true ↔ index.toNat ≤ 15 ∧ copy.toNat ≤ 1 := by
  simp only [payloadInRange, fieldAt_cons_succ, fieldAt_byte, Bool.and_eq_true, decide_eq_true_eq]

theorem payloadInRange_readMap :
    payloadInRange .readMap [index, copy] = true ↔ index.toNat ≤ 23 ∧ copy.toNat ≤ 1 := by
  simp only [payloadInRange, fieldAt_cons_succ, fieldAt_byte, Bool.and_eq_true, decide_eq_true_eq]

/-- READ_ACCOUNT in range reports, whether or not a commit is pending, and changes nothing (R175, R170). -/
theorem exec_readAccount (h : SelectedListening s) (hindex : index.toNat ≤ 15) (hcopy : copy.toNat ≤ 1) :
    exec (.readAccount index copy) s = .next (answering .done (accountBlock s index.toNat copy.toNat) s) := by
  refine exec_of_performed h rfl ((payloadInRange_readAccount index copy).mpr ⟨hindex, hcopy⟩) (.inl rfl) ?_
  simp only [perform, performReadAccount, replyDone, fieldAt_cons_succ, fieldAt_byte]

/-- READ_MAP in range reports, whether or not a commit is pending, and changes nothing (R177, R170). -/
theorem exec_readMap (h : SelectedListening s) (hindex : index.toNat ≤ 23) (hcopy : copy.toNat ≤ 1) :
    exec (.readMap index copy) s = .next (answering .done (mapBlock s index.toNat copy.toNat) s) := by
  refine exec_of_performed h rfl ((payloadInRange_readMap index copy).mpr ⟨hindex, hcopy⟩) (.inl rfl) ?_
  simp only [perform, performReadMap, replyDone, fieldAt_cons_succ, fieldAt_byte]

end

/-- The index byte of a report is the one of the command (R190, R191). -/
theorem fieldBytes_one_toNat (b : Byte) : fieldBytes 1 b.toNat = [b] := by
  rw [fieldBytes_one, BitVec.ofNat_toNat, BitVec.setWidth_eq]

section
variable {index : Byte}

/-- The staged copy of an account is reported without running state (R190). -/
theorem accountBlock_staged {a : AccountIndex} (ha : index.toNat = a.val) (s : State) :
    accountBlock s index.toNat 0 = [index, 0] ++ accountBytes s.store.staged.accounts[a] := by
  have hindex : accountIndexOf index.toNat = a := by rw [ha, accountIndexOf_val]
  simp only [accountBlock, hindex, fieldBytes_one_toNat, encodeAccountParams_eq]
  rfl

/-- The live copy of an account is followed by its running state (R190, R20). -/
theorem accountBlock_live {a : AccountIndex} (ha : index.toNat = a.val) (s : State) :
    accountBlock s index.toNat 1 = [index, 1] ++ accountBytes s.store.live.accounts[a] ++
      twoBytes (accountOf s a).balance ++
      [BitVec.ofNat 8 (accountOf s a).outstanding, BitVec.ofNat 8 (accountOf s a).held] := by
  have hindex : accountIndexOf index.toNat = a := by rw [ha, accountIndexOf_val]
  simp only [accountBlock, if_true, hindex, fieldBytes_one_toNat, encodeAccountParams_eq, List.append_assoc]
  rfl

/-- A map entry is reported from the copy named (R191, R33). -/
theorem mapBlock_eq {i : Fin 24} (hi : index.toNat = i.val) (s : State) (copy : Nat) :
    mapBlock s index.toNat copy = [index, BitVec.ofNat 8 copy] ++ mapBytes (copyOf s copy).map[i] := by
  have hindex : Fin.ofNat 24 index.toNat = i := by rw [hi, Fin.ofNat_val_eq_self]
  simp only [mapBlock, hindex, fieldBytes_one_toNat, encodeMapEntry_eq]
  rfl

end

theorem globalsBlock_eq (s : State) : globalsBlock s = globalsBytes s.store.staged ++ globalsBytes s.store.live := by
  rw [globalsBlock, encodeGlobals_eq, encodeGlobals_eq]

/-- Settles O38: no read is refused while a commit is pending, so that the check of range remains, and then the report. -/
theorem configurationReadsReportTheCopyNamed : Obligations.ConfigurationReadsReportTheCopyNamed := by
  refine ⟨fun index copy s h => ⟨fun hr => ?_, fun a ha => ⟨?_, ?_⟩⟩,
    fun index copy s h => ⟨fun hr => ?_, fun i hi => ⟨?_, ?_⟩, ?_⟩⟩
  · exact exec_of_out_of_range h rfl (mt (payloadInRange_readAccount index copy).mp hr)
  · rintro rfl
    exact accountBlock_staged ha s ▸ exec_readAccount index 0 h (by omega) (by decide)
  · rintro rfl
    exact accountBlock_live ha s ▸ exec_readAccount index 1 h (by omega) (by decide)
  · exact exec_of_out_of_range h rfl (mt (payloadInRange_readMap index copy).mp hr)
  · rintro rfl
    exact mapBlock_eq hi s 0 ▸ exec_readMap index 0 h (by omega) (by decide)
  · rintro rfl
    exact mapBlock_eq hi s 1 ▸ exec_readMap index 1 h (by omega) (by decide)
  · exact globalsBlock_eq s ▸ exec_of_performed (c := .readGlobals) (p := []) h rfl rfl (.inl rfl) rfl

end Sys2Proof.Machine

/-! SUPPORT. What each event leaves of the commands that wait, so that every command completes and keeps the queue
(section 11.2), and a step that takes its front. -/

namespace Sys2Proof.Machine

open Sys2Proof.Safety

variable {s t : State}

/-! ### Head, pool and ports -/

@[simp] theorem matchResponse_pending (s : State) : (matchResponse s).pending = s.pending := by
  unfold matchResponse
  repeat' split
  all_goals simp

@[simp] theorem offerHead_pending (r : Request) (s : State) : (offerHead r s).pending = s.pending := by
  unfold offerHead
  split
  · rfl
  · dsimp only
    split
    · exact judgeHead_pending _
    · rfl

@[simp] theorem takeHeldEvent_pending (s : State) : (takeHeldEvent s).pending = s.pending := by
  unfold takeHeldEvent
  repeat' split
  all_goals simp

@[simp] theorem takeRefusingEvent_pending (s : State) : (takeRefusingEvent s).pending = s.pending := by
  unfold takeRefusingEvent
  repeat' split
  all_goals simp

@[simp] theorem issueCandidate_pending (c : Candidate) (s : State) : (issueCandidate c s).pending = s.pending := by
  cases c <;> simp [issueCandidate]

@[simp] theorem mPortReady_pending (s : State) : (mPortReady s).pending = s.pending := by
  unfold mPortReady
  split
  · split <;> simp
  · rfl

@[simp] theorem offerResponse_pending (r : MemoryResponse) (s : State) : (offerResponse r s).pending = s.pending := by
  unfold offerResponse
  split
  · rfl
  · dsimp only
    split
    · exact matchResponse_pending _
    · rfl

@[simp] theorem deliverMemoryResponse_pending (r : MemoryResponse) (s : State) :
    (deliverMemoryResponse r s).pending = s.pending := by
  rw [deliverMemoryResponse_eq, settle_pending, responseTaken_pending]

@[simp] theorem deliverRefusal_pending (i : SlotIndex) (r : RefusingRecord) (s : State) :
    (deliverRefusal i r s).pending = s.pending := by
  simp [deliverRefusal]

@[simp] theorem hPortReady_pending (s : State) : (hPortReady s).pending = s.pending := by
  unfold hPortReady
  split
  · split
    · rfl
    · simp
    · simp
    · split <;> simp
  · rfl

/-! ### The grid -/

@[simp] theorem sliceBoundaryEvent_pending (s : State) : (sliceBoundaryEvent s).pending = s.pending := by
  simp [sliceBoundaryEvent]

@[simp] theorem tickEvent_pending (s : State) : (tickEvent s).pending = s.pending := by
  unfold tickEvent
  split
  · rfl
  · exact sliceBoundaryEvent_pending s

theorem atTick_pending {bring : State → State}
    (hb : ∀ s, bring s = tickEvent s ∨ bring s = sliceBoundaryEvent s ∨ bring s = s) (s : State) :
    (atTick bring s).pending = s.pending := by
  unfold atTick
  split
  · split
    · rfl
    · rcases hb s with h | h | h <;> simp [h]
  · rfl

@[simp] theorem restartEvent_pending (s : State) : (restartEvent s).pending = s.pending := by
  rw [restartEvent_eq, settle_pending, restartFilled_pending]

@[simp] theorem regenFallEvent_pending (s : State) : (regenFallEvent s).pending = s.pending := settle_pending _

/-! ### The Command Executor and the link -/

@[simp] theorem perform_pending (c : Command) (p : List Byte) (s : State) : (perform c p s).1.pending = s.pending := by
  cases c with
  | flush =>
    unfold perform performFlush
    dsimp only
    split <;> simp
  | setMode => exact settle_pending _
  | status | commit | readCapture | readCounters =>
    simp only [perform, performStatus, performCommit, performReadCapture, performReadCounters]
    split <;> rfl
  | identify | readAccount | readMap | readGlobals | readHold => rfl
  | writeAccount | writeMap | writeGlobals | copyLiveToStaged | cancelCommit | ackAlert | setAlertEnable | clearCapture =>
    rfl

/-- Link work reaches the queue neither by the link's own fields nor by a command it executes (R169). -/
theorem LinkWorks.pending (h : LinkWorks s t) : t.pending = s.pending :=
  h.keeps (P := fun u => u.pending = s.pending) (fun _ _ _ hu => hu) (fun c p hu => (perform_pending c p _).trans hu) rfl

/-! ### Power and REFCLK -/

@[simp] theorem powerOnResetEvent_pending (change : ResetChange) (s : State) :
    (powerOnResetEvent change s).pending = s.pending := by
  unfold powerOnResetEvent
  split
  · split <;> rfl
  · rfl

@[simp] theorem initialisationEvent_pending (stn : BitVec 5) (rate : BitVec 2) (s : State) :
    (initialisationEvent stn rate s).pending = s.pending := by
  unfold initialisationEvent
  split <;> rfl

@[simp] theorem initialisationCompleteEvent_pending (high : Bool) (s : State) :
    (initialisationCompleteEvent high s).pending = s.pending := by
  unfold initialisationCompleteEvent
  split <;> simp

@[simp] theorem refclkStopEvent_pending (s : State) : (refclkStopEvent s).pending = s.pending := by
  unfold refclkStopEvent
  dsimp only
  repeat' split
  all_goals rfl

@[simp] theorem refclkResumeEvent_pending (s : State) : (refclkResumeEvent s).pending = s.pending := by
  unfold refclkResumeEvent
  dsimp only
  repeat' split
  all_goals rfl

/-! ### Every command -/

/-- Settles O3: each row is its event, or the arrival of its frame, or a boundary or nothing where it is a tick, and all of
these leave the queue. -/
theorem everyCommandCompletesAndKeepsTheQueue : Obligations.EveryCommandCompletesAndKeepsTheQueue := by
  intro i s
  by_cases hrow : i ∈ tickRows
  · obtain ⟨bring, hexec, hb⟩ := exec_of_mem_tickRows hrow
    exact ⟨_, hexec s, atTick_pending hb s⟩
  cases i with
  | tick | sliceBoundary | periodBoundary | expiry | publication => exact absurd (by decide) hrow
  | offer r => exact ⟨_, rfl, offerHead_pending r s⟩
  | takeHeld => exact ⟨_, rfl, takeHeldEvent_pending s⟩
  | takeRefusing => exact ⟨_, rfl, takeRefusingEvent_pending s⟩
  | mPortReadyEvent => exact ⟨_, rfl, mPortReady_pending s⟩
  | memoryResponse r => exact ⟨_, rfl, offerResponse_pending r s⟩
  | hPortReadyEvent => exact ⟨_, rfl, hPortReady_pending s⟩
  | regulationRestart =>
    refine ⟨_, rfl, ?_⟩
    split
    · exact restartEvent_pending s
    · rfl
  | regenFall =>
    refine ⟨_, rfl, ?_⟩
    split
    · exact regenFallEvent_pending s
    · rfl
  | powerOnReset change => exact ⟨_, rfl, powerOnResetEvent_pending change s⟩
  | initialisation stn rate => exact ⟨_, rfl, initialisationEvent_pending stn rate s⟩
  | initialisationComplete high => exact ⟨_, rfl, initialisationCompleteEvent_pending high s⟩
  | refclkStop => exact ⟨_, rfl, refclkStopEvent_pending s⟩
  | refclkResume => exact ⟨_, rfl, refclkResumeEvent_pending s⟩
  | selectCharacter value => exact ⟨_, rfl, (linkWorks_selectEvent value s).pending⟩
  | dataCharacter value => exact ⟨_, rfl, (linkWorks_dataEvent value s).pending⟩
  | framingError => exact ⟨_, rfl, (linkWorks_framingErrorEvent s).pending⟩
  | frameTimeout => exact ⟨_, rfl, (linkWorks_frameTimeoutEvent s).pending⟩
  | linkBreak => exact ⟨_, rfl, (linkWorks_breakEvent s).pending⟩
  | responseTurnaround => exact ⟨_, rfl, (linkWorks_turnaroundEvent s).pending⟩
  | responseEnd => exact ⟨_, rfl, (linkWorks_responseEndEvent s).pending⟩
  | endOfBreak => exact ⟨_, rfl, (linkWorks_endOfBreakEvent s).pending⟩
  | unknownCommand | identify | statusKeep | statusClear | readAccount | writeAccount | readMap | writeMap
  | readGlobals | writeGlobals | copyLiveToStaged | commit | cancelCommit | readCountersKeep | readCountersClear
  | readHold | flushRelease | flushRefuse | readCapture | clearCapture | setMode | ackAlert | setAlertEnable =>
    exact ⟨_, rfl, (linkWorks_receiveFrame _ _ s).pending⟩

/-- Settles O1: the queue of the state that steps is the front and the rest. -/
theorem stepRunsFrontCommand : Obligations.StepRunsFrontCommand := fun _ _ _ => step_of_front rfl

end Sys2Proof.Machine

/-! SUPPORT. The reports of identity, status, counters, slots and Capture Ring, byte by byte, and the clears that go with them
(R172 to R174, R179, R180, R182, R188, R189, R193 to R195). -/

namespace Sys2Proof.Machine

open Sys2Proof.Safety

variable {s : State}

/-! ### Bytes of a report -/

theorem ofNat_encodeDirection (d : Direction) : BitVec.ofNat 8 (encodeDirection d) = directionByte d := by
  cases d <;> rfl

theorem ofNat_encodeCause (c : Cause) : BitVec.ofNat 8 (encodeCause c) = causeByte c := by
  cases c <;> rfl

theorem ofNat_encodeBlocker (b : Blocker) : BitVec.ofNat 8 (encodeBlocker b) = blockerByte b := by
  cases b <;> rfl

theorem ofNat_encodeAccount (a : Option AccountIndex) : BitVec.ofNat 8 (encodeAccount a) = accountByte a := by
  cases a <;> rfl

theorem ofNat_encodeBool (b : Bool) : BitVec.ofNat 8 (encodeBool b) = if b = true then 0x01 else 0x00 := by
  cases b <;> rfl

/-! ### IDENTIFY and STATUS -/

/-- The identity block (R188). -/
theorem identifyBlock_eq (s : State) : identifyBlock s =
    twoBytes 0x0A37 ++ twoBytes 0x0160 ++ [0x01, s.power.station.setWidth 8, 16, 24, 24, 16, 8] := by
  simp only [identifyBlock, fieldBytes_one, fieldBytes_two, BitVec.ofNat_toNat]
  rfl

/-- Settles O36: IDENTIFY has no payload to check. -/
theorem identifyReportsTheIdentityBlock : Obligations.IdentifyReportsTheIdentityBlock := by
  intro s h
  exact identifyBlock_eq s ▸ exec_of_performed (c := .identify) (p := []) h rfl rfl (.inl rfl) rfl

/-- The four flags of STATUS are bits of one byte (R189). -/
theorem ofNat_statusFlags (s : State) : BitVec.ofNat 8 (statusFlags s) =
    (if s.reg.mode = .enforce then 0x01 else 0) ||| (if s.reg.regenHigh = true then 0x02 else 0) |||
      (if s.reg.mode = .enforce ∧ s.reg.regenHigh = true then 0x04 else 0) |||
      (if s.store.commitPending = true then 0x08 else 0) := by
  simp only [statusFlags, regulationActive_iff]
  cases s.reg.mode <;> cases s.reg.regenHigh <;> cases s.store.commitPending <;> rfl

/-- STATUS in either form is a frame in range, reported before the clear (R173, R174, R170). -/
theorem exec_status {i : Instr} {clear : Byte} (h : SelectedListening s) (hf : managementFrame i = some (.status, [clear]))
    (hclear : clear.toNat ≤ 1) :
    exec i s = .next (answering .done (statusBlock s) (if clear.toNat = 1 then clearGlobalCounters s else s)) := by
  refine exec_of_performed h hf ?_ (.inl rfl) ?_
  · simpa only [payloadInRange, fieldAt_byte, decide_eq_true_eq] using hclear
  · simp only [perform, performStatus, replyDone, fieldAt_byte, beq_iff_eq]

/-- Settles O37: keep and clear answer the same report, and the clear is of the four global counters. -/
theorem statusReportsAndClears : Obligations.StatusReportsAndClears := by
  intro s h flags report
  have hreport : statusBlock s = report := by
    simp only [statusBlock, fieldBytes_one, fieldBytes_two, ofNat_statusFlags, BitVec.ofNat_toNat, List.append_assoc]
    rfl
  exact ⟨hreport ▸ exec_status (i := .statusKeep) h rfl (by decide),
    hreport ▸ exec_status (i := .statusClear) h rfl (by decide)⟩

/-! ### READ_COUNTERS -/

section
variable {i : Instr} {index clear : Byte}

theorem accountIndex_eq {a : AccountIndex} (ha : index.toNat = a.val) : accountIndexOf index.toNat = a := by
  rw [ha, accountIndexOf_val]

theorem payloadInRange_readCounters :
    payloadInRange .readCounters [index, clear] = true ↔ index.toNat ≤ 15 ∧ clear.toNat ≤ 1 := by
  simp only [payloadInRange, fieldAt_cons_succ, fieldAt_byte, Bool.and_eq_true, decide_eq_true_eq]

/-- READ_COUNTERS of an account that is none is refused, in either form (R170, R179). -/
theorem exec_readCounters_out_of_range (h : SelectedListening s)
    (hf : managementFrame i = some (.readCounters, [index, clear])) (hindex : 16 ≤ index.toNat) :
    exec i s = .next (answering .range [] s) :=
  exec_of_out_of_range h hf fun hr => absurd (payloadInRange_readCounters.mp hr).1 (by omega)

/-- READ_COUNTERS in range reports one account before the clear, whether or not a commit is pending (R18, R170). -/
theorem exec_readCounters {a : AccountIndex} (h : SelectedListening s)
    (hf : managementFrame i = some (.readCounters, [index, clear])) (ha : index.toNat = a.val) (hclear : clear.toNat ≤ 1) :
    exec i s = .next (answering .done (countersBlock s index.toNat)
      (if clear.toNat = 1 then updateAccount a clearCounters s else s)) := by
  refine exec_of_performed h hf (payloadInRange_readCounters.mpr ⟨by omega, hclear⟩) (.inl rfl) ?_
  simp only [perform, performReadCounters, replyDone, fieldAt_cons_succ, fieldAt_byte, beq_iff_eq,
    accountIndex_eq ha]

end

/-- Settles O39: the report is the one account's counters, and the clear writes that account alone. -/
theorem readCountersReportsAndClears : Obligations.ReadCountersReportsAndClears := by
  intro index s h
  refine ⟨fun hr => ⟨exec_readCounters_out_of_range h rfl hr, exec_readCounters_out_of_range h rfl hr⟩, ?_⟩
  intro a ha k report
  have hreport : countersBlock s index.toNat = report := by
    simp only [countersBlock, accountIndex_eq ha, fieldBytes_one, fieldBytes_four, BitVec.ofNat_toNat, BitVec.setWidth_eq,
      List.append_assoc]
    rfl
  exact ⟨hreport ▸ exec_readCounters (i := .readCountersKeep index) h rfl ha (by decide),
    hreport ▸ exec_readCounters (i := .readCountersClear index) h rfl ha (by decide)⟩

/-! ### READ_HOLD -/

theorem slotRecord_of_free {i : SlotIndex} (hfree : ∀ e ∈ s.pool, e.slot ≠ i) : slotRecord s i = none := by
  rw [slotRecord, Option.map_eq_none_iff, List.find?_eq_none]
  exact fun e he hslot => hfree e he (eq_of_beq hslot)

section
variable {slot : Byte} {i : SlotIndex}

theorem slotIndex_eq (hi : slot.toNat = i.val) : Fin.ofNat 24 slot.toNat = i := by rw [hi, Fin.ofNat_val_eq_self]

theorem payloadInRange_readHold : payloadInRange .readHold [slot] = true ↔ slot.toNat ≤ 23 := by
  simp only [payloadInRange, fieldAt_byte, decide_eq_true_eq]

/-- READ_HOLD in range reports, whether or not a commit is pending, and changes nothing (R180, R170). -/
theorem exec_readHold (h : SelectedListening s) (hi : slot.toNat = i.val) :
    exec (.readHold slot) s = .next (answering .done (holdBlock s slot.toNat) s) := by
  refine exec_of_performed h rfl (payloadInRange_readHold.mpr (by omega)) (.inl rfl) ?_
  simp only [perform, performReadHold, replyDone, fieldAt_byte]

/-- A FREE slot is reported in 2 bytes (R194). -/
theorem holdBlock_free (hi : slot.toNat = i.val) (hrecord : slotRecord s i = none) :
    holdBlock s slot.toNat = [slot, 0x00] := by
  simp only [holdBlock, slotIndex_eq hi, hrecord, fieldBytes_one_toNat]
  rfl

/-- A REFUSING slot is reported in 8 bytes (R194). -/
theorem holdBlock_refusing {f : RefusingRecord} {n : Nat} (hi : slot.toNat = i.val)
    (hrecord : slotRecord s i = some (.refusing f) ∧ poolPosition s i = n) :
    holdBlock s slot.toNat = [slot, 0x02, f.id.setWidth 8, f.tag, directionByte f.dir, causeByte f.cause,
      accountByte f.account, BitVec.ofNat 8 n] := by
  simp only [holdBlock, slotIndex_eq hi, hrecord, fieldBytes_one, BitVec.ofNat_toNat, BitVec.setWidth_eq, ofNat_encodeDirection,
    ofNat_encodeCause, ofNat_encodeAccount]
  rfl

/-- A HELD slot is reported in 15 bytes (R194). -/
theorem holdBlock_held {r : HeldRecord} {n : Nat} (hi : slot.toNat = i.val)
    (hrecord : slotRecord s i = some (.held r) ∧ poolPosition s i = n) :
    holdBlock s slot.toNat =
      [slot, 0x01, BitVec.ofNat 8 r.account.val, r.req.id.setWidth 8, r.req.tag, directionByte r.req.dir] ++
        fourBytes r.req.addr.toNat ++
        [BitVec.ofNat 8 r.req.len, BitVec.ofNat 8 r.wait, if r.exempt = true then 0x01 else 0x00,
          blockerByte r.blocker, BitVec.ofNat 8 n] := by
  simp only [holdBlock, slotIndex_eq hi, hrecord, fieldBytes_one, fieldBytes_four, BitVec.ofNat_toNat, BitVec.setWidth_eq,
    ofNat_encodeDirection, ofNat_encodeBool, ofNat_encodeBlocker]
  rfl

end

/-- Settles O40: the layout follows the record of the slot, and its pool position is the number of records ahead of it. -/
theorem readHoldReportsTheSlot : Obligations.ReadHoldReportsTheSlot := by
  refine fun slot s h => ⟨fun hr => ?_, fun i hi => ⟨fun hfree => ?_, fun front back f hd hp => ?_,
    fun front back r hd hp => ?_⟩⟩
  · exact exec_of_out_of_range h rfl fun hin => absurd (payloadInRange_readHold.mp hin) (by omega)
  · exact holdBlock_free hi (slotRecord_of_free hfree) ▸ exec_readHold h hi
  · exact holdBlock_refusing hi (slotRecord_of_split hd hp) ▸ exec_readHold h hi
  · exact holdBlock_held hi (slotRecord_of_split hd hp) ▸ exec_readHold h hi

/-! ### The Capture Ring -/

/-- A capture record lies at the offsets 2 to 16 of R195. -/
theorem captureBytes_eq (r : CaptureRecord) : captureBytes r = twoBytes r.seq ++
    [causeByte r.cause, accountByte r.account, r.id.setWidth 8, r.tag, directionByte r.dir] ++
    fourBytes r.addr.toNat ++ [BitVec.ofNat 8 r.len] ++ twoBytes r.period ++ [BitVec.ofNat 8 r.slice] := by
  simp only [captureBytes, fieldBytes_one, fieldBytes_two, fieldBytes_four, BitVec.ofNat_toNat, BitVec.setWidth_eq,
    ofNat_encodeCause, ofNat_encodeAccount, ofNat_encodeDirection]
  rfl

theorem performReadCapture_nil (h : s.capture.records = []) :
    performReadCapture s = (s, replyDone [0, BitVec.ofNat 8 s.capture.lost]) := by
  simp only [performReadCapture, h]
  rfl

theorem performReadCapture_cons {r : CaptureRecord} {rest : List CaptureRecord} (h : s.capture.records = r :: rest) :
    performReadCapture s = ({ s with capture := { s.capture with records := rest } },
      replyDone ([BitVec.ofNat 8 rest.length, BitVec.ofNat 8 s.capture.lost] ++ captureBytes r)) := by
  simp only [performReadCapture, h]
  rfl

/-- Settles O41: neither command has a payload to check, and the list of records is the ring, oldest first. -/
theorem captureRingIsReadAndCleared : Obligations.CaptureRingIsReadAndCleared := by
  refine fun s h => ⟨fun hempty => ?_, fun r rest hring => ?_, ?_⟩
  · exact exec_of_performed (c := .readCapture) (p := []) h rfl rfl (.inl rfl) (performReadCapture_nil hempty)
  · rw [exec_of_performed (c := .readCapture) (p := []) h rfl rfl (.inl rfl) (performReadCapture_cons hring),
      captureBytes_eq]
    simp only [List.append_assoc]
  · exact exec_of_performed (c := .clearCapture) (p := []) h rfl rfl (.inl rfl) rfl

end Sys2Proof.Machine
